-- ==== Sys2Proof/Word.lean ====
section
/-! DEFINITION. The word types of the LQE: the fixed widths of 00_scope.md R6 and the 53-bit host transaction of
30_encoding.md R101. -/

namespace Sys2Proof

/-- A 32-bit register word; also an `i32` bit pattern or a `u32` (00_scope.md R6, 20_memory.md R77). -/
abbrev Word := BitVec 32

/-- A `u64`: timestamps, `NOW`, deadlines, `FCT_MS` (00_scope.md R6). -/
abbrev U64 := BitVec 64

/-- An 18-bit byte offset from `LQE_BASE` (20_memory.md R70). -/
abbrev Addr := BitVec 18

/-- A 16-bit signal id (00_scope.md R6, 30_encoding.md R106). -/
abbrev SigId := BitVec 16

/-- A host transaction `{WRITE, SIZE, ADDR, DATA}` (30_encoding.md R101). -/
abbrev Txn := BitVec 53

end Sys2Proof
end

