-- ==== Sys2Proof/Config.lean ====
section
/-! DEFINITION. The parameters an implementation of the LQE fixes (00_scope.md R5). The capacities are plain data that
State holds, so that every statement is about every build; so is the choice of the OPEN parameter `XFORM`. The functions
that a platform may supply for it are the opaque constant `Sys2Proof.Config.xform` of Machine/Transform.lean: its type
needs State. The two parameters no rule reads are opaque. -/

namespace Sys2Proof

/-- The OPEN parameter `XFORM` of a build (00_scope.md R5, 45_transform_slot.md R281, R282), by name: State is plain data. -/
inductive XformParam where
  /-- The default `XFORM_ID` (45_transform_slot.md R282). -/
  | identity
  /-- The `k`-th function that a platform supplies under the contract of R281 (log 6). -/
  | supplied (k : Nat)
  deriving DecidableEq, Repr

/-- The parameters of one build that a rule reads: its capacities and its `XFORM` (00_scope.md R5). -/
structure Params where
  maxSignals : Nat
  maxEvents : Nat
  maxMerges : Nat
  maxMonitors : Nat
  maxCyclic : Nat
  maxTransforms : Nat
  maxOutputEvents : Nat
  maxWake : Nat
  xform : XformParam
  deriving DecidableEq, Repr

namespace Params

/-- The legal ranges of 00_scope.md R5; every `XFORM` of the model meets its contract by construction. -/
abbrev legal (p : Params) : Prop :=
  (1 ≤ p.maxSignals ∧ p.maxSignals ≤ 4096) ∧ (1 ≤ p.maxEvents ∧ p.maxEvents ≤ 65535) ∧
  p.maxMerges ≤ 255 ∧ p.maxMonitors ≤ 255 ∧ p.maxCyclic ≤ 255 ∧ p.maxTransforms ≤ 255 ∧
  (1 ≤ p.maxOutputEvents ∧ p.maxOutputEvents ≤ 256) ∧ (1 ≤ p.maxWake ∧ p.maxWake ≤ 256)

/-- The reference configuration of 92_eei_decisions.md D50. DESIGN CHOICE (log 5): the build that `State.reset` is of;
unsafe for a claim about that one state only. -/
def reference : Params where
  maxSignals := 16
  maxEvents := 8
  maxMerges := 4
  maxMonitors := 4
  maxCyclic := 4
  maxTransforms := 4
  maxOutputEvents := 4
  maxWake := 4
  xform := .identity

end Params

namespace Config

/-- `LQE_BASE` (00_scope.md R5, 20_memory.md R70): the platform's; the block sees offsets only (log 15). -/
opaque lqeBase : Nat

/-- `STEP_LATENCY_BOUND` (70_reset_and_hazards.md R362): no rule depends on it (log 15). -/
opaque stepLatencyBound : Nat

end Config

end Sys2Proof
end

