-- ==== Sys2Proof/Syntax.lean ====
section
/-! DEFINITION. The operations of the LQE: one constructor per row of opcode_table.json (00_scope.md R3). -/

namespace Sys2Proof

/-- One operation: a decoded host transaction (30_encoding.md R103, R104), or a voting-method selector, the MRG_CTRL word
that the merge engine runs for one entry (R108). `addr` is the full 18-bit byte offset; `data` of a read is ignored
but kept, so that no bit of a transaction is lost. -/
inductive Instr where
  /-- BUS_ERROR_SIZE0: a byte access (60_exceptions.md R311). -/
  | busErrorSize0 (write : Bool) (addr : Addr) (data : Word)
  /-- BUS_ERROR_SIZE1: a halfword access (60_exceptions.md R311). -/
  | busErrorSize1 (write : Bool) (addr : Addr) (data : Word)
  /-- BUS_ERROR_SIZE3: an access of the reserved size (60_exceptions.md R311). -/
  | busErrorSize3 (write : Bool) (addr : Addr) (data : Word)
  /-- BUS_ERROR_MISALIGNED1: a word access with `ADDR[1:0] = 01` (60_exceptions.md R311). -/
  | busErrorMisaligned1 (write : Bool) (addr : Addr) (data : Word)
  /-- BUS_ERROR_MISALIGNED2: a word access with `ADDR[1:0] = 10` (60_exceptions.md R311). -/
  | busErrorMisaligned2 (write : Bool) (addr : Addr) (data : Word)
  /-- BUS_ERROR_MISALIGNED3: a word access with `ADDR[1:0] = 11` (60_exceptions.md R311). -/
  | busErrorMisaligned3 (write : Bool) (addr : Addr) (data : Word)
  /-- NOP (40_host_interface.md R135). -/
  | nop
  /-- STEP (40_host_interface.md R150). -/
  | step
  /-- EVT_PUSH (40_host_interface.md R136). -/
  | evtPush
  /-- EVT_FLUSH (40_host_interface.md R137). -/
  | evtFlush
  /-- INIT (40_host_interface.md R138). -/
  | init
  /-- CMD_RESERVED: any other command word (40_host_interface.md R139). -/
  | cmdReserved (data : Word)
  /-- STATUS_W1C: a write to STATUS (40_host_interface.md R133). -/
  | statusW1c (data : Word)
  /-- BUS_READ (40_host_interface.md R131). -/
  | busRead (addr : Addr) (data : Word)
  /-- BUS_WRITE (40_host_interface.md R132). -/
  | busWrite (addr : Addr) (data : Word)
  /-- METHOD_MIN (43_merge_voter.md R204). -/
  | methodMin (en : Bool) (nin : BitVec 4)
  /-- METHOD_MAX (43_merge_voter.md R205). -/
  | methodMax (en : Bool) (nin : BitVec 4)
  /-- METHOD_AVERAGE (43_merge_voter.md R206). -/
  | methodAverage (en : Bool) (nin : BitVec 4)
  /-- METHOD_MEDIAN (43_merge_voter.md R207). -/
  | methodMedian (en : Bool) (nin : BitVec 4)
  /-- METHOD_MAJORITY (43_merge_voter.md R208). -/
  | methodMajority (en : Bool) (nin : BitVec 4)
  /-- METHOD_RESERVED5: stored, the merge is skipped (30_encoding.md R109, 43_merge_voter.md R201). -/
  | methodReserved5 (en : Bool) (nin : BitVec 4)
  /-- METHOD_RESERVED6: stored, the merge is skipped (30_encoding.md R109, 43_merge_voter.md R201). -/
  | methodReserved6 (en : Bool) (nin : BitVec 4)
  /-- METHOD_RESERVED7: stored, the merge is skipped (30_encoding.md R109, 43_merge_voter.md R201). -/
  | methodReserved7 (en : Bool) (nin : BitVec 4)
  deriving DecidableEq, Repr

/-- The two encoded forms that a decoder reads (30_encoding.md R100): a host transaction (which holds the command word),
and a configuration selector, the MRG_CTRL word. -/
inductive Code where
  | transaction (t : Txn)
  | selector (w : Word)
  deriving DecidableEq, Repr

end Sys2Proof
end

