-- ==== Sys2Proof/Machine/State.lean ====
section
/-! DEFINITION. The state of the LQE (10_state.md R20), the model's own fields beside it, the reasons a step can stop, and
the state after reset (70_reset_and_hazards.md R340). -/

namespace Sys2Proof.Machine

/-- The status codes of 10_state.md R64. The reserved codes 6 and 7 are never stored, so they have no constructor. -/
inductive Status where
  | ok
  | degraded
  | outOfRange
  | error
  | timeout
  | inconsistent
  deriving DecidableEq, Repr, Inhabited

/-- The four sticky flags of `STATUS` (10_state.md R28). -/
structure Flags where
  evtOvf : Bool
  wakePend : Bool
  wakeOvf : Bool
  cmdErr : Bool
  deriving DecidableEq, Repr

/-- An entry of the event FIFO (10_state.md R33). -/
structure Event where
  id : SigId
  value : Word
  status : Status
  ts : U64
  deriving DecidableEq, Repr

/-- An entry of the output buffer (10_state.md R36). -/
structure OutEvent where
  target : Word
  value : Word
  ts : U64
  deriving DecidableEq, Repr

/-- A wake record (10_state.md R37); `src` is 0 for the fast path, 1 for the cycle-level pass (30_encoding.md R112). -/
structure WakeRec where
  monitor : BitVec 8
  value : Word
  level : Word
  src : Bool
  deriving DecidableEq, Repr

/-- A signal slot (10_state.md R38 to R42). -/
structure Signal where
  value : Word
  status : Status
  ts : U64
  thresh : Word
  updated : Bool
  deriving DecidableEq, Repr

/-- The eight input slots of a merge (10_state.md R46). -/
structure Slots where
  in0 : SigId
  in1 : SigId
  in2 : SigId
  in3 : SigId
  in4 : SigId
  in5 : SigId
  in6 : SigId
  in7 : SigId
  deriving DecidableEq, Repr

/-- A merge entry (10_state.md R43 to R46). -/
structure MergeEntry where
  en : Bool
  method : BitVec 3
  nin : BitVec 4
  outId : SigId
  tol : Word
  slots : Slots
  deriving DecidableEq, Repr

/-- The control bits of a monitor (10_state.md R47). -/
structure MonCtrl where
  en : Bool
  chkStale : Bool
  chkRange : Bool
  chkStatus : Bool
  wakeEn : Bool
  cycWakeEn : Bool
  limpEn : Bool
  limpScaleEn : Bool
  limpMinEn : Bool
  limpMaxEn : Bool
  deriving DecidableEq, Repr

/-- A fault monitor: its configuration (10_state.md R47 to R54) and its runtime fields (R55 to R57). -/
structure Monitor where
  ctrl : MonCtrl
  watch : SigId
  fout : SigId
  staleTo : Word
  minV : Word
  maxV : Word
  level : Word
  target : BitVec 8
  limpScale : Word
  limpMin : Word
  limpMax : Word
  restoreMs : Word
  limpActive : Bool
  faultActive : Bool
  svHasMin : Bool
  svHasMax : Bool
  svScale : Word
  svMin : Word
  svMax : Word
  fctMs : U64
  deriving DecidableEq, Repr

/-- A cyclic-output entry (10_state.md R58 to R60). -/
structure CyclicEntry where
  src : SigId
  target : Word
  period : Word
  dl : U64
  deriving DecidableEq, Repr

/-- A transform entry (10_state.md R61, R62). -/
structure Xform where
  en : Bool
  hasMin : Bool
  hasMax : Bool
  inId : SigId
  outId : SigId
  scale : Word
  clampMin : Word
  clampMax : Word
  deriving DecidableEq, Repr

/-- What the step sequencer runs next (40_host_interface.md R150); Phase 3 is run one merge entry at a time. -/
inductive Phase where
  | prologue
  | ingest
  | staleness
  | merge (m : Nat)
  | monitor
  | transform
  | cyclic
  | epilogue
  deriving DecidableEq, Repr

/-- The sequencer's hidden state (10_state.md R23, R67): idle between steps; inside a step, its phase and the latched
step time `N`, which exists only there (70_reset_and_hazards.md R341). -/
inductive Sequencer where
  | idle
  | running (phase : Phase) (n : U64)
  deriving DecidableEq, Repr

/-- What the outside world delivers to the block: a bus transaction, or a power-on reset (70_reset_and_hazards.md R342). -/
inductive PortEvent where
  | transaction (t : Txn)
  | powerOnReset
  deriving DecidableEq, Repr

/-- The response of the last completed bus transaction: its read data, where it was a read, and whether it was an ERROR
(40_host_interface.md R131, 60_exceptions.md R311). `quiet`: no transaction has completed since power-on. -/
inductive BusResp where
  | quiet
  | ok (data : Option Word)
  | error (data : Option Word)
  deriving DecidableEq, Repr

/-- The state. The first fields are the spec's (10_state.md R20); a table's capacity is its length, and `EVT_COUNT`,
`OUT_COUNT` and `WAKE_COUNT` are lengths too, so each is stored once. `maxEvents`, `maxOutputEvents`, `maxWake` and
`xform` are build parameters (00_scope.md R5). `port` and `resp` are the model's own fields (log 1, log 4). -/
structure State where
  status : Flags
  wakeIe : Bool
  now : U64
  stepCnt : Word
  evtId : SigId
  evtValue : Word
  evtStatus : Status
  evtTs : U64
  fifo : List Event
  outs : List OutEvent
  wakes : List WakeRec
  sigs : List Signal
  mrgs : List MergeEntry
  mons : List Monitor
  cycs : List CyclicEntry
  xfs : List Xform
  seq : Sequencer
  maxEvents : Nat
  maxOutputEvents : Nat
  maxWake : Nat
  xform : XformParam
  port : List PortEvent
  resp : BusResp
  deriving DecidableEq, Repr

/-- No condition stops the LQE (40_host_interface.md R152, 60_exceptions.md R310, R320): no step faults, so the type has
no constructor. Safe: the spec gives every case an effect. -/
inductive Fault
  deriving DecidableEq, Repr

/-- Why an instruction would have no meaning here. -/
inductive Refusal where
  /-- Raised only by an arm of `exec` that has no meaning yet; no arm is such. Safe: it would only stop the machine. -/
  | notModelled (mnemonic : String)
  deriving DecidableEq, Repr

/-- A cleared set of flags (70_reset_and_hazards.md R340). -/
def Flags.zero : Flags := ⟨false, false, false, false⟩

/-- A signal after reset (70_reset_and_hazards.md R340). -/
def Signal.zero : Signal := ⟨0#32, .ok, 0#64, 0#32, false⟩

/-- Input slots after reset. -/
def Slots.zero : Slots := ⟨0#16, 0#16, 0#16, 0#16, 0#16, 0#16, 0#16, 0#16⟩

/-- A merge entry after reset (70_reset_and_hazards.md R340). -/
def MergeEntry.zero : MergeEntry := ⟨false, 0#3, 0#4, 0#16, 0#32, Slots.zero⟩

/-- Monitor control bits after reset. -/
def MonCtrl.zero : MonCtrl := ⟨false, false, false, false, false, false, false, false, false, false⟩

/-- A monitor after reset (70_reset_and_hazards.md R340): not enabled, NORMAL. -/
def Monitor.zero : Monitor where
  ctrl := MonCtrl.zero
  watch := 0#16
  fout := 0#16
  staleTo := 0#32
  minV := 0#32
  maxV := 0#32
  level := 0#32
  target := 0#8
  limpScale := 0#32
  limpMin := 0#32
  limpMax := 0#32
  restoreMs := 0#32
  limpActive := false
  faultActive := false
  svHasMin := false
  svHasMax := false
  svScale := 0#32
  svMin := 0#32
  svMax := 0#32
  fctMs := 0#64

/-- A cyclic entry after reset (70_reset_and_hazards.md R340): disabled. -/
def CyclicEntry.zero : CyclicEntry := ⟨0#16, 0#32, 0#32, 0#64⟩

/-- A transform entry after reset (70_reset_and_hazards.md R340). -/
def Xform.zero : Xform := ⟨false, false, false, 0#16, 0#16, 0#32, 0#32, 0#32⟩

/-- The parameters of the build a state is of (00_scope.md R5). -/
def State.params (s : State) : Params where
  maxSignals := s.sigs.length
  maxEvents := s.maxEvents
  maxMerges := s.mrgs.length
  maxMonitors := s.mons.length
  maxCyclic := s.cycs.length
  maxTransforms := s.xfs.length
  maxOutputEvents := s.maxOutputEvents
  maxWake := s.maxWake
  xform := s.xform

/-- The state after a power-on reset of a build with parameters `p`, with nothing waiting at the port
(70_reset_and_hazards.md R340, R341, R343). -/
def State.resetOf (p : Params) : State where
  status := Flags.zero
  wakeIe := false
  now := 0#64
  stepCnt := 0#32
  evtId := 0#16
  evtValue := 0#32
  evtStatus := .ok
  evtTs := 0#64
  fifo := []
  outs := []
  wakes := []
  sigs := List.replicate p.maxSignals Signal.zero
  mrgs := List.replicate p.maxMerges MergeEntry.zero
  mons := List.replicate p.maxMonitors Monitor.zero
  cycs := List.replicate p.maxCyclic CyclicEntry.zero
  xfs := List.replicate p.maxTransforms Xform.zero
  seq := .idle
  maxEvents := p.maxEvents
  maxOutputEvents := p.maxOutputEvents
  maxWake := p.maxWake
  xform := p.xform
  port := []
  resp := .quiet

/-- The machine right after reset: every field as 70_reset_and_hazards.md R340 says, in the reference configuration of
92_eei_decisions.md D50 (DESIGN CHOICE, log 5). -/
def State.reset : State := State.resetOf Params.reference

end Sys2Proof.Machine
end

