-- ==== Sys2Proof/Machine/Flags.lean ====
section
/-! DEFINITION. The sticky flags of STATUS and the interrupt output (10_state.md R28, R65; 60_exceptions.md R310 to R316). -/

namespace Sys2Proof.Machine

/-- The STATUS word: bits [3:0], the rest RAZ (10_state.md R28). -/
def flagsWord (f : Flags) : Word :=
  (((0#28 ++ BitVec.ofBool f.cmdErr) ++ BitVec.ofBool f.wakeOvf) ++ BitVec.ofBool f.wakePend) ++ BitVec.ofBool f.evtOvf

/-- Write 1 to clear: a bit written 0 is unchanged, bits [31:4] are ignored (40_host_interface.md R133). -/
def clearFlags (w : Word) (f : Flags) : Flags where
  evtOvf := f.evtOvf && !w.getLsbD 0
  wakePend := f.wakePend && !w.getLsbD 1
  wakeOvf := f.wakeOvf && !w.getLsbD 2
  cmdErr := f.cmdErr && !w.getLsbD 3

/-- `STATUS.EVT_OVF <- 1` (60_exceptions.md R313). -/
def setEvtOvf (s : State) : State := { s with status := { s.status with evtOvf := true } }

/-- `STATUS.WAKE_PEND <- 1` (44_fault_monitor.md R255). -/
def setWakePend (s : State) : State := { s with status := { s.status with wakePend := true } }

/-- `STATUS.WAKE_OVF <- 1` (60_exceptions.md R314). -/
def setWakeOvf (s : State) : State := { s with status := { s.status with wakeOvf := true } }

/-- `STATUS.CMD_ERR <- 1` (60_exceptions.md R312). -/
def setCmdErr (s : State) : State := { s with status := { s.status with cmdErr := true } }

/-- The interrupt output (10_state.md R65, 60_exceptions.md R316). -/
def irqWake (s : State) : Bool := s.wakeIe && s.status.wakePend

end Sys2Proof.Machine
end

