-- ==== Sys2Proof/WellFormed.lean ====
section
/-! DEFINITION. Which terms of `Instr` stand for an operation the block can be given (30_encoding.md R103, R104, R110). -/

namespace Sys2Proof

/-- The decode conditions of 30_encoding.md R103 and R104 on the operands of each form; `NIN` is 0..8 (R110). -/
def Instr.wellFormed : Instr → Bool
  | .busErrorSize0 _ _ _ => true
  | .busErrorSize1 _ _ _ => true
  | .busErrorSize3 _ _ _ => true
  | .busErrorMisaligned1 _ addr _ => addr.extractLsb' 0 2 == 1#2
  | .busErrorMisaligned2 _ addr _ => addr.extractLsb' 0 2 == 2#2
  | .busErrorMisaligned3 _ addr _ => addr.extractLsb' 0 2 == 3#2
  | .nop => true
  | .step => true
  | .evtPush => true
  | .evtFlush => true
  | .init => true
  | .cmdReserved data => decide (5 ≤ data.toNat)
  | .statusW1c _ => true
  | .busRead addr _ => addr.extractLsb' 0 2 == 0#2
  | .busWrite addr _ => addr.extractLsb' 0 2 == 0#2 && addr != 0x010#18 && addr != 0x014#18
  | .methodMin _ nin => decide (nin.toNat ≤ 8)
  | .methodMax _ nin => decide (nin.toNat ≤ 8)
  | .methodAverage _ nin => decide (nin.toNat ≤ 8)
  | .methodMedian _ nin => decide (nin.toNat ≤ 8)
  | .methodMajority _ nin => decide (nin.toNat ≤ 8)
  | .methodReserved5 _ nin => decide (nin.toNat ≤ 8)
  | .methodReserved6 _ nin => decide (nin.toNat ≤ 8)
  | .methodReserved7 _ nin => decide (nin.toNat ≤ 8)

/-- The operation is decoded from a host transaction, not from an MRG_CTRL word (30_encoding.md R100). -/
def Instr.isTransaction : Instr → Bool
  | .methodMin _ _ | .methodMax _ _ | .methodAverage _ _ | .methodMedian _ _ | .methodMajority _ _
  | .methodReserved5 _ _ | .methodReserved6 _ _ | .methodReserved7 _ _ => false
  | .busErrorSize0 _ _ _ | .busErrorSize1 _ _ _ | .busErrorSize3 _ _ _ | .busErrorMisaligned1 _ _ _
  | .busErrorMisaligned2 _ _ _ | .busErrorMisaligned3 _ _ _ | .nop | .step | .evtPush | .evtFlush | .init
  | .cmdReserved _ | .statusW1c _ | .busRead _ _ | .busWrite _ _ => true

end Sys2Proof
end

