-- ==== Sys2Proof/Decode.lean ====
section
/-! DEFINITION. The decoder of host transactions and of voting-method selectors, and the encoder
(30_encoding.md R100 to R104, R108 to R110). -/

namespace Sys2Proof

/-- `WRITE`, bit [52] of a transaction (30_encoding.md R101). -/
def txnWrite (t : Txn) : Bool := t.getLsbD 52

/-- `SIZE`, bits [51:50] (30_encoding.md R101). -/
def txnSize (t : Txn) : BitVec 2 := t.extractLsb' 50 2

/-- `ADDR`, bits [49:32] (30_encoding.md R101). -/
def txnAddr (t : Txn) : Addr := t.extractLsb' 32 18

/-- `DATA`, bits [31:0] (30_encoding.md R101). -/
def txnData (t : Txn) : Word := t.extractLsb' 0 32

/-- `{WRITE, SIZE, ADDR, DATA}` (30_encoding.md R101). -/
def mkTxn (write : Bool) (size : BitVec 2) (addr : Addr) (data : Word) : Txn :=
  ((BitVec.ofBool write ++ size) ++ addr) ++ data

/-- The command word (30_encoding.md R102, R104). -/
def decodeCommand (data : Word) : Instr :=
  match data.toNat with
  | 0 => .nop
  | 1 => .step
  | 2 => .evtPush
  | 3 => .evtFlush
  | 4 => .init
  | _ => .cmdReserved data

/-- A word access, by the low address bits, the direction and the address (30_encoding.md R103 lines 1 to 4). -/
def decodeWordAccess (write : Bool) (addr : Addr) (data : Word) : Instr :=
  match (addr.extractLsb' 0 2).toNat with
  | 0 =>
    if write then
      if addr = 0x010#18 then decodeCommand data
      else if addr = 0x014#18 then .statusW1c data
      else .busWrite addr data
    else .busRead addr data
  | 1 => .busErrorMisaligned1 write addr data
  | 2 => .busErrorMisaligned2 write addr data
  | _ => .busErrorMisaligned3 write addr data

/-- The one operation a transaction decodes to, in the priority of opcode_table.json: the size rows, then the alignment
rows, then the commands, STATUS_W1C, BUS_READ and BUS_WRITE (30_encoding.md R103, R104). DEDUCED (log 10): a misaligned
access of a wrong size is the size row. -/
def decodeTransaction (t : Txn) : Instr :=
  match (txnSize t).toNat with
  | 0 => .busErrorSize0 (txnWrite t) (txnAddr t) (txnData t)
  | 1 => .busErrorSize1 (txnWrite t) (txnAddr t) (txnData t)
  | 2 => decodeWordAccess (txnWrite t) (txnAddr t) (txnData t)
  | _ => .busErrorSize3 (txnWrite t) (txnAddr t) (txnData t)

/-- `NIN` is WARL: 9..15 is stored as 8 (30_encoding.md R110). -/
def legalNin (x : BitVec 4) : BitVec 4 := if x.toNat ≤ 8 then x else 8#4

/-- `METHOD`, bits [6:4] of an MRG_CTRL word (30_encoding.md R108). -/
def selectorMethod (w : Word) : BitVec 3 := w.extractLsb' 4 3

/-- The voting-method selector of an MRG_CTRL word (30_encoding.md R108), with `NIN` as the word is stored (R110). -/
def decodeSelector (w : Word) : Instr :=
  let en := w.getLsbD 0
  let nin := legalNin (w.extractLsb' 8 4)
  match (selectorMethod w).toNat with
  | 0 => .methodMin en nin
  | 1 => .methodMax en nin
  | 2 => .methodAverage en nin
  | 3 => .methodMedian en nin
  | 4 => .methodMajority en nin
  | 5 => .methodReserved5 en nin
  | 6 => .methodReserved6 en nin
  | _ => .methodReserved7 en nin

/-- The decoder: total on both encoded forms (30_encoding.md R100, R103). -/
def decode : Code → Instr
  | .transaction t => decodeTransaction t
  | .selector w => decodeSelector w

/-- `{0, NIN, 0, METHOD, 0, EN}`: an MRG_CTRL word whose RAZ bits are 0 (10_state.md section 5, R43). -/
def mkSelector (en : Bool) (method : BitVec 3) (nin : BitVec 4) : Word :=
  ((((0#20 ++ nin) ++ 0#1) ++ method) ++ 0#3) ++ BitVec.ofBool en

/-- A write of a command word to `CMD` (30_encoding.md R102, R104). -/
def mkCommand (data : Word) : Txn := mkTxn true 2#2 0x010#18 data

/-- The encoder: the word of an operation (30_encoding.md R101, R104, R108). -/
def encode : Instr → Code
  | .busErrorSize0 write addr data => .transaction (mkTxn write 0#2 addr data)
  | .busErrorSize1 write addr data => .transaction (mkTxn write 1#2 addr data)
  | .busErrorSize3 write addr data => .transaction (mkTxn write 3#2 addr data)
  | .busErrorMisaligned1 write addr data => .transaction (mkTxn write 2#2 addr data)
  | .busErrorMisaligned2 write addr data => .transaction (mkTxn write 2#2 addr data)
  | .busErrorMisaligned3 write addr data => .transaction (mkTxn write 2#2 addr data)
  | .nop => .transaction (mkCommand 0#32)
  | .step => .transaction (mkCommand 1#32)
  | .evtPush => .transaction (mkCommand 2#32)
  | .evtFlush => .transaction (mkCommand 3#32)
  | .init => .transaction (mkCommand 4#32)
  | .cmdReserved data => .transaction (mkCommand data)
  | .statusW1c data => .transaction (mkTxn true 2#2 0x014#18 data)
  | .busRead addr data => .transaction (mkTxn false 2#2 addr data)
  | .busWrite addr data => .transaction (mkTxn true 2#2 addr data)
  | .methodMin en nin => .selector (mkSelector en 0#3 nin)
  | .methodMax en nin => .selector (mkSelector en 1#3 nin)
  | .methodAverage en nin => .selector (mkSelector en 2#3 nin)
  | .methodMedian en nin => .selector (mkSelector en 3#3 nin)
  | .methodMajority en nin => .selector (mkSelector en 4#3 nin)
  | .methodReserved5 en nin => .selector (mkSelector en 5#3 nin)
  | .methodReserved6 en nin => .selector (mkSelector en 6#3 nin)
  | .methodReserved7 en nin => .selector (mkSelector en 7#3 nin)

/-- Why a number is no encoded form at all. No bit pattern of 53 bits, and no MRG_CTRL word, is refused (30_encoding.md
R103): these two say only that the number is too wide to be one. -/
inductive DecodeError where
  /-- More than 53 bits: no host transaction (30_encoding.md R101). -/
  | transactionTooWide
  /-- More than 32 bits: no MRG_CTRL word (10_state.md section 5). -/
  | selectorTooWide
  deriving DecidableEq, Repr

/-- A number as one of the two encoded forms: the opcode table gives its METHOD rows one 32-bit word, and every other
row the 53 bits of `T` (30_encoding.md R100, R101). -/
def codeOfNat (nbits w : Nat) : Except DecodeError Code :=
  if nbits ≤ 32 then
    if w < 2 ^ 32 then .ok (.selector (BitVec.ofNat 32 w)) else .error .selectorTooWide
  else if w < 2 ^ 53 then .ok (.transaction (BitVec.ofNat 53 w)) else .error .transactionTooWide

/-- The instruction the decoder reads from the bits `w` of a row of `nbits` bits. -/
def decodeTableWord (nbits w : Nat) : Option Instr :=
  match codeOfNat nbits w with
  | .ok c => some (decode c)
  | .error _ => none

end Sys2Proof
end

