-- ==== Sys2Proof/Machine/Operands.lean ====
section
/-! DEFINITION. The operand of a bus access: the address map from a byte offset to a named register or table word
(20_memory.md R71 to R73), and the bit fields of each word (10_state.md, 30_encoding.md R105 to R111). -/

namespace Sys2Proof.Machine

/-! ### Fields of a word -/

/-- Bits [31:0] of a 64-bit quantity (20_memory.md R76). -/
def loWord (v : U64) : Word := v.extractLsb' 0 32

/-- Bits [63:32] of a 64-bit quantity (20_memory.md R76). -/
def hiWord (v : U64) : Word := v.extractLsb' 32 32

/-- A write of the `_LO` word (20_memory.md R76). -/
def withLoWord (v : U64) (w : Word) : U64 := hiWord v ++ w

/-- A write of the `_HI` word (20_memory.md R76). -/
def withHiWord (v : U64) (w : Word) : U64 := w ++ loWord v

/-- A signal-id field: bits [15:0] (30_encoding.md R106). -/
def idField (w : Word) : SigId := w.extractLsb' 0 16

/-- A word that reads a signal id, bits [31:16] RAZ (30_encoding.md R106). -/
def idWord (i : SigId) : Word := 0#16 ++ i

/-- A transform-id field: bits [7:0] (30_encoding.md R106). -/
def byteField (w : Word) : BitVec 8 := w.extractLsb' 0 8

/-- A word that reads an 8-bit field, bits [31:8] RAZ. -/
def byteWord (b : BitVec 8) : Word := 0#24 ++ b

/-- A word that reads one bit, bits [31:1] RAZ. -/
def bitWord (b : Bool) : Word := 0#31 ++ BitVec.ofBool b

/-- The 3-bit status codes of 10_state.md R64. -/
def statusCode : Status → BitVec 3
  | .ok => 0#3
  | .degraded => 1#3
  | .outOfRange => 2#3
  | .error => 3#3
  | .timeout => 4#3
  | .inconsistent => 5#3

/-- A written status code; 6 and 7 store ERROR (10_state.md R39, 30_encoding.md R107). -/
def statusOfCode (c : BitVec 3) : Status :=
  match c.toNat with
  | 0 => .ok
  | 1 => .degraded
  | 2 => .outOfRange
  | 3 => .error
  | 4 => .timeout
  | 5 => .inconsistent
  | _ => .error

/-- The status field of a written word: bits [2:0] (30_encoding.md R107). -/
def statusField (w : Word) : Status := statusOfCode (w.extractLsb' 0 3)

/-- A word that reads a status, the other bits RAZ (10_state.md R32). -/
def statusWord (st : Status) : Word := 0#29 ++ statusCode st

/-- The SIG_STATUS word: `updated` at bit [8], the code at [2:0] (10_state.md R38). -/
def sigStatusWord (g : Signal) : Word :=
  ((0#23 ++ BitVec.ofBool g.updated) ++ 0#5) ++ statusCode g.status

/-- The MRG_CTRL word of an entry (10_state.md section 5). -/
def mrgCtrlWord (e : MergeEntry) : Word := mkSelector e.en e.method e.nin

/-- A write of MRG_CTRL: `METHOD` as written, `NIN` WARL (30_encoding.md R109, R110). -/
def withMrgCtrl (e : MergeEntry) (w : Word) : MergeEntry :=
  { e with en := w.getLsbD 0, method := selectorMethod w, nin := legalNin (w.extractLsb' 8 4) }

/-- The MON_CTRL word (10_state.md R47). -/
def monCtrlWord (c : MonCtrl) : Word :=
  ((((((((((0#20 ++ BitVec.ofBool c.limpMaxEn) ++ BitVec.ofBool c.limpMinEn) ++ BitVec.ofBool c.limpScaleEn) ++
    BitVec.ofBool c.limpEn) ++ 0#2) ++ BitVec.ofBool c.cycWakeEn) ++ BitVec.ofBool c.wakeEn) ++
    BitVec.ofBool c.chkStatus) ++ BitVec.ofBool c.chkRange) ++ BitVec.ofBool c.chkStale) ++ BitVec.ofBool c.en

/-- The control bits of a written MON_CTRL word; other bits WI (10_state.md R47). -/
def monCtrlOfWord (w : Word) : MonCtrl where
  en := w.getLsbD 0
  chkStale := w.getLsbD 1
  chkRange := w.getLsbD 2
  chkStatus := w.getLsbD 3
  wakeEn := w.getLsbD 4
  cycWakeEn := w.getLsbD 5
  limpEn := w.getLsbD 8
  limpScaleEn := w.getLsbD 9
  limpMinEn := w.getLsbD 10
  limpMaxEn := w.getLsbD 11

/-- The MON_RT word (10_state.md R55). -/
def monRtWord (k : Monitor) : Word :=
  ((((0#22 ++ BitVec.ofBool k.svHasMax) ++ BitVec.ofBool k.svHasMin) ++ 0#6) ++
    BitVec.ofBool k.faultActive) ++ BitVec.ofBool k.limpActive

/-- The XF_CTRL word (10_state.md section 8). -/
def xfCtrlWord (x : Xform) : Word :=
  ((0#29 ++ BitVec.ofBool x.hasMax) ++ BitVec.ofBool x.hasMin) ++ BitVec.ofBool x.en

/-- `LQE_ID` (10_state.md R21). -/
def lqeIdWord : Word := 0x4C514531#32

/-- `CAPS_SIG` (10_state.md R24). -/
def capsSigWord (p : Params) : Word := BitVec.ofNat 16 p.maxEvents ++ BitVec.ofNat 16 p.maxSignals

/-- `CAPS_TBL` (10_state.md R25). -/
def capsTblWord (p : Params) : Word :=
  ((BitVec.ofNat 8 p.maxTransforms ++ BitVec.ofNat 8 p.maxCyclic) ++ BitVec.ofNat 8 p.maxMonitors) ++
    BitVec.ofNat 8 p.maxMerges

/-- `CAPS_BUF` (10_state.md R26). -/
def capsBufWord (p : Params) : Word := BitVec.ofNat 16 p.maxWake ++ BitVec.ofNat 16 p.maxOutputEvents

/-- `age(N, t)`, and `sat_sub` in general: subtraction of unsigned values that stops at 0 (00_scope.md section 5). -/
def satSub (a b : U64) : Nat := a.toNat - b.toNat

/-! ### The words of the address map -/

/-- The words of an output event (10_state.md R36). -/
inductive OutField where
  | target | value | tsLo | tsHi
  deriving DecidableEq, Repr

/-- The words of a wake record (10_state.md R37). -/
inductive WakeField where
  | monitor | value | level | src
  deriving DecidableEq, Repr

/-- The words of a signal entry (10_state.md R38). -/
inductive SigField where
  | value | status | tsLo | tsHi | thresh
  deriving DecidableEq, Repr

/-- The words of a merge entry (10_state.md section 5). -/
inductive MrgField where
  | ctrl | out | tol | in0 | in1 | in2 | in3 | in4 | in5 | in6 | in7
  deriving DecidableEq, Repr

/-- The words of a monitor entry (10_state.md section 6). -/
inductive MonField where
  | ctrl | watch | fout | staleTo | minV | maxV | level | target | limpScale | limpMin | limpMax | restoreMs
  | rt | svScale | svMin | svMax | fctLo | fctHi
  deriving DecidableEq, Repr

/-- The words of a cyclic entry (10_state.md section 7). -/
inductive CycField where
  | src | target | period | dlLo | dlHi
  deriving DecidableEq, Repr

/-- The words of a transform entry (10_state.md section 8). -/
inductive XfField where
  | ctrl | inId | outId | scale | clampMin | clampMax
  deriving DecidableEq, Repr

/-- A named word of the address map (20_memory.md R71): a control register, or a word of a table entry. -/
inductive Reg where
  | lqeId | capsSig | capsTbl | capsBuf | cmd | status | irqEn | nowLo | nowHi | stepCnt
  | evtId | evtValue | evtStatus | evtTsLo | evtTsHi | evtCount | outCount | wakeCount
  | out (i : Nat) (f : OutField)
  | wake (i : Nat) (f : WakeField)
  | mrg (m : Nat) (f : MrgField)
  | mon (k : Nat) (f : MonField)
  | cyc (c : Nat) (f : CycField)
  | xf (t : Nat) (f : XfField)
  | sig (i : Nat) (f : SigField)
  deriving DecidableEq, Repr

/-- The control registers (10_state.md section 1); every other offset of the page is reserved. -/
def controlAt (o : Nat) : Option Reg :=
  match o with
  | 0x000 => some .lqeId
  | 0x004 => some .capsSig
  | 0x008 => some .capsTbl
  | 0x00C => some .capsBuf
  | 0x010 => some .cmd
  | 0x014 => some .status
  | 0x018 => some .irqEn
  | 0x020 => some .nowLo
  | 0x024 => some .nowHi
  | 0x028 => some .stepCnt
  | 0x030 => some .evtId
  | 0x034 => some .evtValue
  | 0x038 => some .evtStatus
  | 0x03C => some .evtTsLo
  | 0x040 => some .evtTsHi
  | 0x044 => some .evtCount
  | 0x048 => some .outCount
  | 0x04C => some .wakeCount
  | _ => none

/-- The word offsets of an output event (10_state.md R36). -/
def outFieldAt (o : Nat) : Option OutField :=
  match o with
  | 0x0 => some .target
  | 0x4 => some .value
  | 0x8 => some .tsLo
  | 0xC => some .tsHi
  | _ => none

/-- The word offsets of a wake record (10_state.md R37). -/
def wakeFieldAt (o : Nat) : Option WakeField :=
  match o with
  | 0x0 => some .monitor
  | 0x4 => some .value
  | 0x8 => some .level
  | 0xC => some .src
  | _ => none

/-- The word offsets of a signal entry (10_state.md R38). -/
def sigFieldAt (o : Nat) : Option SigField :=
  match o with
  | 0x00 => some .value
  | 0x04 => some .status
  | 0x08 => some .tsLo
  | 0x0C => some .tsHi
  | 0x10 => some .thresh
  | _ => none

/-- The word offsets of a merge entry (10_state.md section 5). -/
def mrgFieldAt (o : Nat) : Option MrgField :=
  match o with
  | 0x00 => some .ctrl
  | 0x04 => some .out
  | 0x08 => some .tol
  | 0x10 => some .in0
  | 0x14 => some .in1
  | 0x18 => some .in2
  | 0x1C => some .in3
  | 0x20 => some .in4
  | 0x24 => some .in5
  | 0x28 => some .in6
  | 0x2C => some .in7
  | _ => none

/-- The word offsets of a monitor entry (10_state.md section 6). -/
def monFieldAt (o : Nat) : Option MonField :=
  match o with
  | 0x00 => some .ctrl
  | 0x04 => some .watch
  | 0x08 => some .fout
  | 0x0C => some .staleTo
  | 0x10 => some .minV
  | 0x14 => some .maxV
  | 0x18 => some .level
  | 0x1C => some .target
  | 0x20 => some .limpScale
  | 0x24 => some .limpMin
  | 0x28 => some .limpMax
  | 0x2C => some .restoreMs
  | 0x30 => some .rt
  | 0x34 => some .svScale
  | 0x38 => some .svMin
  | 0x3C => some .svMax
  | 0x40 => some .fctLo
  | 0x44 => some .fctHi
  | _ => none

/-- The word offsets of a cyclic entry (10_state.md section 7). -/
def cycFieldAt (o : Nat) : Option CycField :=
  match o with
  | 0x00 => some .src
  | 0x04 => some .target
  | 0x08 => some .period
  | 0x10 => some .dlLo
  | 0x14 => some .dlHi
  | _ => none

/-- The word offsets of a transform entry (10_state.md section 8). -/
def xfFieldAt (o : Nat) : Option XfField :=
  match o with
  | 0x00 => some .ctrl
  | 0x04 => some .inId
  | 0x08 => some .outId
  | 0x0C => some .scale
  | 0x10 => some .clampMin
  | 0x14 => some .clampMax
  | _ => none

/-- A word of entry `o / stride` of a window whose table has `cap` entries; an index at or above the capacity is
reserved (20_memory.md R72, R73). -/
def entryAt (cap stride o : Nat) (fieldAt : Nat → Option φ) (mk : Nat → φ → Reg) : Option Reg :=
  if o / stride < cap then (fieldAt (o % stride)).map (mk (o / stride)) else none

/-- The address map of a build (20_memory.md R71): the named word at a byte offset, or none where the offset is reserved
(R73). -/
def regAt (p : Params) (a : Addr) : Option Reg :=
  let o := a.toNat
  if o < 0x1000 then controlAt o
  else if o < 0x2000 then entryAt p.maxOutputEvents 16 (o - 0x1000) outFieldAt .out
  else if o < 0x3000 then entryAt p.maxWake 16 (o - 0x2000) wakeFieldAt .wake
  else if o < 0x4000 then none
  else if o < 0x8000 then entryAt p.maxMerges 64 (o - 0x4000) mrgFieldAt .mrg
  else if o < 0x10000 then entryAt p.maxMonitors 128 (o - 0x8000) monFieldAt .mon
  else if o < 0x12000 then entryAt p.maxCyclic 32 (o - 0x10000) cycFieldAt .cyc
  else if o < 0x14000 then entryAt p.maxTransforms 32 (o - 0x12000) xfFieldAt .xf
  else if o < 0x20000 then none
  else entryAt p.maxSignals 32 (o - 0x20000) sigFieldAt .sig

/-- The build has the named word: its entry index is below the table's capacity (20_memory.md R73). -/
def regExists (p : Params) : Reg → Bool
  | .out i _ => decide (i < p.maxOutputEvents)
  | .wake i _ => decide (i < p.maxWake)
  | .mrg m _ => decide (m < p.maxMerges)
  | .mon k _ => decide (k < p.maxMonitors)
  | .cyc c _ => decide (c < p.maxCyclic)
  | .xf t _ => decide (t < p.maxTransforms)
  | .sig i _ => decide (i < p.maxSignals)
  | .lqeId | .capsSig | .capsTbl | .capsBuf | .cmd | .status | .irqEn | .nowLo | .nowHi | .stepCnt
  | .evtId | .evtValue | .evtStatus | .evtTsLo | .evtTsHi | .evtCount | .outCount | .wakeCount => true

end Sys2Proof.Machine
end

