-- ==== Sys2Proof/Machine/Ops.lean ====
section
/-! DEFINITION. The named operations over the tables, buffers and registers that the meanings share: reading and writing a
table entry and a named word (40_host_interface.md R131, R132), the bus error (60_exceptions.md R311), the reset action
(70_reset_and_hazards.md R340), `emit_wake` (44_fault_monitor.md R255), `append_out` (46_output_scheduler.md R292) and the
ascending loop (00_scope.md R7). -/

namespace Sys2Proof.Machine

/-! ### Table entries -/

/-- `S[i]`. -/
def sigAt (s : State) (i : Nat) : Signal := s.sigs.getD i Signal.zero

/-- `MRG[m]`. -/
def mrgAt (s : State) (m : Nat) : MergeEntry := s.mrgs.getD m MergeEntry.zero

/-- `MON[k]`. -/
def monAt (s : State) (k : Nat) : Monitor := s.mons.getD k Monitor.zero

/-- `CYC[c]`. -/
def cycAt (s : State) (c : Nat) : CyclicEntry := s.cycs.getD c CyclicEntry.zero

/-- `XF[t]`. -/
def xfAt (s : State) (t : Nat) : Xform := s.xfs.getD t Xform.zero

/-- `S[i] <- g`. -/
def setSig (s : State) (i : Nat) (g : Signal) : State := { s with sigs := s.sigs.set i g }

/-- `MRG[m] <- e`. -/
def setMrg (s : State) (m : Nat) (e : MergeEntry) : State := { s with mrgs := s.mrgs.set m e }

/-- `MON[k] <- e`. -/
def setMon (s : State) (k : Nat) (e : Monitor) : State := { s with mons := s.mons.set k e }

/-- `CYC[c] <- e`. -/
def setCyc (s : State) (c : Nat) (e : CyclicEntry) : State := { s with cycs := s.cycs.set c e }

/-- `XF[t] <- x`. -/
def setXf (s : State) (t : Nat) (x : Xform) : State := { s with xfs := s.xfs.set t x }

/-- `for i in 0..n-1 ascending: s <- f i s`; each iteration sees the writes of the earlier ones (00_scope.md R7). -/
def ascending (n : Nat) (f : Nat → State → State) (s : State) : State :=
  match n with
  | 0 => s
  | k + 1 => f k (ascending k f s)

/-- A signal id is in range when it is `< MAX_SIGNALS` (30_encoding.md R106). -/
def sigInRange (s : State) (i : SigId) : Bool := decide (i.toNat < s.sigs.length)

/-! ### Bus responses and the bus error -/

/-- The transaction completes with response `r`. -/
def respond (s : State) (r : BusResp) : State := { s with resp := r }

/-- `raise BusError(addr)`: the one exception of the LQE. The response is ERROR, a read returns 0, no state of the LQE
changes (60_exceptions.md R311). There is no saved state and no return (R320, R321). -/
def raiseBusError (write : Bool) (s : State) : State :=
  respond s (.error (if write then none else some 0#32))

/-! ### Named words -/

/-- Input slot `j` of a merge entry (10_state.md R46). -/
def Slots.toList (z : Slots) : List SigId := [z.in0, z.in1, z.in2, z.in3, z.in4, z.in5, z.in6, z.in7]

/-- An output entry as the host reads it: 0 at and above `OUT_COUNT` (10_state.md R36). -/
def outAt (s : State) (i : Nat) : OutEvent := s.outs.getD i ⟨0#32, 0#32, 0#64⟩

/-- A wake record as the host reads it: 0 at and above `WAKE_COUNT` (10_state.md R37). -/
def wakeAt (s : State) (i : Nat) : WakeRec := s.wakes.getD i ⟨0#8, 0#32, 0#32, false⟩

/-- A word of an output event (10_state.md R36). -/
def readOut (e : OutEvent) : OutField → Word
  | .target => e.target
  | .value => e.value
  | .tsLo => loWord e.ts
  | .tsHi => hiWord e.ts

/-- A word of a wake record (10_state.md R37). -/
def readWake (e : WakeRec) : WakeField → Word
  | .monitor => byteWord e.monitor
  | .value => e.value
  | .level => e.level
  | .src => bitWord e.src

/-- A word of a signal entry (10_state.md R38). -/
def readSig (g : Signal) : SigField → Word
  | .value => g.value
  | .status => sigStatusWord g
  | .tsLo => loWord g.ts
  | .tsHi => hiWord g.ts
  | .thresh => g.thresh

/-- A word of a merge entry (10_state.md section 5). -/
def readMrg (e : MergeEntry) : MrgField → Word
  | .ctrl => mrgCtrlWord e
  | .out => idWord e.outId
  | .tol => e.tol
  | .in0 => idWord e.slots.in0
  | .in1 => idWord e.slots.in1
  | .in2 => idWord e.slots.in2
  | .in3 => idWord e.slots.in3
  | .in4 => idWord e.slots.in4
  | .in5 => idWord e.slots.in5
  | .in6 => idWord e.slots.in6
  | .in7 => idWord e.slots.in7

/-- A word of a monitor entry (10_state.md section 6). -/
def readMon (k : Monitor) : MonField → Word
  | .ctrl => monCtrlWord k.ctrl
  | .watch => idWord k.watch
  | .fout => idWord k.fout
  | .staleTo => k.staleTo
  | .minV => k.minV
  | .maxV => k.maxV
  | .level => k.level
  | .target => byteWord k.target
  | .limpScale => k.limpScale
  | .limpMin => k.limpMin
  | .limpMax => k.limpMax
  | .restoreMs => k.restoreMs
  | .rt => monRtWord k
  | .svScale => k.svScale
  | .svMin => k.svMin
  | .svMax => k.svMax
  | .fctLo => loWord k.fctMs
  | .fctHi => hiWord k.fctMs

/-- A word of a cyclic entry (10_state.md section 7). -/
def readCyc (e : CyclicEntry) : CycField → Word
  | .src => idWord e.src
  | .target => e.target
  | .period => e.period
  | .dlLo => loWord e.dl
  | .dlHi => hiWord e.dl

/-- A word of a transform entry (10_state.md section 8). -/
def readXf (x : Xform) : XfField → Word
  | .ctrl => xfCtrlWord x
  | .inId => idWord x.inId
  | .outId => idWord x.outId
  | .scale => x.scale
  | .clampMin => x.clampMin
  | .clampMax => x.clampMax

/-- The word a named register reads, every RAZ bit 0; `CMD` reads 0 (40_host_interface.md R131). -/
def readReg (s : State) : Reg → Word
  | .lqeId => lqeIdWord
  | .capsSig => capsSigWord s.params
  | .capsTbl => capsTblWord s.params
  | .capsBuf => capsBufWord s.params
  | .cmd => 0#32
  | .status => flagsWord s.status
  | .irqEn => bitWord s.wakeIe
  | .nowLo => loWord s.now
  | .nowHi => hiWord s.now
  | .stepCnt => s.stepCnt
  | .evtId => idWord s.evtId
  | .evtValue => s.evtValue
  | .evtStatus => statusWord s.evtStatus
  | .evtTsLo => loWord s.evtTs
  | .evtTsHi => hiWord s.evtTs
  | .evtCount => BitVec.ofNat 32 s.fifo.length
  | .outCount => BitVec.ofNat 32 s.outs.length
  | .wakeCount => BitVec.ofNat 32 s.wakes.length
  | .out i f => readOut (outAt s i) f
  | .wake i f => readWake (wakeAt s i) f
  | .mrg m f => readMrg (mrgAt s m) f
  | .mon k f => readMon (monAt s k) f
  | .cyc c f => readCyc (cycAt s c) f
  | .xf t f => readXf (xfAt s t) f
  | .sig i f => readSig (sigAt s i) f

/-- The word at a byte offset; a reserved offset reads 0 (40_host_interface.md R131, 20_memory.md R73). -/
def readWord (s : State) (a : Addr) : Word :=
  match regAt s.params a with
  | some r => readReg s r
  | none => 0#32

/-- A write of a word of a signal entry; `updated` is read-only (10_state.md R38 to R40). -/
def writeSig (g : Signal) (w : Word) : SigField → Signal
  | .value => { g with value := w }
  | .status => { g with status := statusField w }
  | .tsLo => { g with ts := withLoWord g.ts w }
  | .tsHi => { g with ts := withHiWord g.ts w }
  | .thresh => { g with thresh := w }

/-- A write of a word of a merge entry (10_state.md section 5). -/
def writeMrg (e : MergeEntry) (w : Word) : MrgField → MergeEntry
  | .ctrl => withMrgCtrl e w
  | .out => { e with outId := idField w }
  | .tol => { e with tol := w }
  | .in0 => { e with slots := { e.slots with in0 := idField w } }
  | .in1 => { e with slots := { e.slots with in1 := idField w } }
  | .in2 => { e with slots := { e.slots with in2 := idField w } }
  | .in3 => { e with slots := { e.slots with in3 := idField w } }
  | .in4 => { e with slots := { e.slots with in4 := idField w } }
  | .in5 => { e with slots := { e.slots with in5 := idField w } }
  | .in6 => { e with slots := { e.slots with in6 := idField w } }
  | .in7 => { e with slots := { e.slots with in7 := idField w } }

/-- A write of a word of a monitor entry; the runtime words are read-only (10_state.md section 6, R132). -/
def writeMon (k : Monitor) (w : Word) : MonField → Monitor
  | .ctrl => { k with ctrl := monCtrlOfWord w }
  | .watch => { k with watch := idField w }
  | .fout => { k with fout := idField w }
  | .staleTo => { k with staleTo := w }
  | .minV => { k with minV := w }
  | .maxV => { k with maxV := w }
  | .level => { k with level := w }
  | .target => { k with target := byteField w }
  | .limpScale => { k with limpScale := w }
  | .limpMin => { k with limpMin := w }
  | .limpMax => { k with limpMax := w }
  | .restoreMs => { k with restoreMs := w }
  | .rt => k
  | .svScale => k
  | .svMin => k
  | .svMax => k
  | .fctLo => k
  | .fctHi => k

/-- A write of a word of a cyclic entry (10_state.md section 7). -/
def writeCyc (e : CyclicEntry) (w : Word) : CycField → CyclicEntry
  | .src => { e with src := idField w }
  | .target => { e with target := w }
  | .period => { e with period := w }
  | .dlLo => { e with dl := withLoWord e.dl w }
  | .dlHi => { e with dl := withHiWord e.dl w }

/-- A write of a word of a transform entry (10_state.md section 8). -/
def writeXf (x : Xform) (w : Word) : XfField → Xform
  | .ctrl => { x with en := w.getLsbD 0, hasMin := w.getLsbD 1, hasMax := w.getLsbD 2 }
  | .inId => { x with inId := idField w }
  | .outId => { x with outId := idField w }
  | .scale => { x with scale := w }
  | .clampMin => { x with clampMin := w }
  | .clampMax => { x with clampMax := w }

/-- A write of a named word: each RW field takes its legal value, STATUS is write-1-to-clear, read-only words are
unchanged (40_host_interface.md R132, R133). `CMD` is not a BUS_WRITE (30_encoding.md R103) and holds no state. -/
def writeReg (s : State) (w : Word) : Reg → State
  | .lqeId => s
  | .capsSig => s
  | .capsTbl => s
  | .capsBuf => s
  | .cmd => s
  | .status => { s with status := clearFlags w s.status }
  | .irqEn => { s with wakeIe := w.getLsbD 0 }
  | .nowLo => { s with now := withLoWord s.now w }
  | .nowHi => { s with now := withHiWord s.now w }
  | .stepCnt => s
  | .evtId => { s with evtId := idField w }
  | .evtValue => { s with evtValue := w }
  | .evtStatus => { s with evtStatus := statusField w }
  | .evtTsLo => { s with evtTs := withLoWord s.evtTs w }
  | .evtTsHi => { s with evtTs := withHiWord s.evtTs w }
  | .evtCount => s
  | .outCount => s
  | .wakeCount => s
  | .out _ _ => s
  | .wake _ _ => s
  | .mrg m f => setMrg s m (writeMrg (mrgAt s m) w f)
  | .mon k f => setMon s k (writeMon (monAt s k) w f)
  | .cyc c f => setCyc s c (writeCyc (cycAt s c) w f)
  | .xf t f => setXf s t (writeXf (xfAt s t) w f)
  | .sig i f => setSig s i (writeSig (sigAt s i) w f)

/-- A write at a byte offset; a reserved offset ignores it (40_host_interface.md R132, 20_memory.md R73). -/
def writeWord (s : State) (a : Addr) (w : Word) : State :=
  match regAt s.params a with
  | some r => writeReg s w r
  | none => s

/-! ### Reset, wake records, output events -/

/-- RESET_ALL (70_reset_and_hazards.md R340): every field of the LQE; the capacities are constants. What waits at the
port, and the response of the last transaction, are not the LQE's state and stay. -/
def resetAll (s : State) : State :=
  { s with
    status := Flags.zero, wakeIe := false, now := 0#64, stepCnt := 0#32
    evtId := 0#16, evtValue := 0#32, evtStatus := .ok, evtTs := 0#64
    fifo := [], outs := [], wakes := []
    sigs := s.sigs.map fun _ => Signal.zero
    mrgs := s.mrgs.map fun _ => MergeEntry.zero
    mons := s.mons.map fun _ => Monitor.zero
    cycs := s.cycs.map fun _ => CyclicEntry.zero
    xfs := s.xfs.map fun _ => Xform.zero
    seq := .idle }

/-- Power-on reset: RESET_ALL, whatever the sequencer was doing; no transaction has completed since
(70_reset_and_hazards.md R340, R342). -/
def powerOnReset (s : State) : State := respond (resetAll s) .quiet

/-- `emit_wake(k, v, lvl, src)` (44_fault_monitor.md R255). -/
def emitWake (k : Nat) (v lvl : Word) (src : Bool) (s : State) : State :=
  let s := setWakePend s
  if s.wakes.length < s.maxWake then
    { s with wakes := s.wakes ++ [⟨BitVec.ofNat 8 k, v, lvl, src⟩] }
  else setWakeOvf s

/-- `append_out(tgt, v, ts)` (46_output_scheduler.md R292). -/
def appendOut (tgt v : Word) (ts : U64) (s : State) : State :=
  if s.outs.length < s.maxOutputEvents then { s with outs := s.outs ++ [⟨tgt, v, ts⟩] } else s

/-- A valid monitor (44_fault_monitor.md R240). -/
def monValid (s : State) (k : Monitor) : Bool :=
  k.ctrl.en && sigInRange s k.watch && sigInRange s k.fout && k.fout != k.watch

/-- A value outside `[MIN, MAX]`, signed and inclusive (41_ingestion.md R176, 44_fault_monitor.md R244). -/
def outOfRange (k : Monitor) (v : Word) : Bool :=
  decide (v.toInt < k.minV.toInt) || decide (k.maxV.toInt < v.toInt)

end Sys2Proof.Machine
end

