-- ==== Sys2Proof/Machine/Bus.lean ====
section
/-! DEFINITION. The bus operations: BUS_READ, BUS_WRITE, STATUS_W1C and the six BUS_ERROR rows
(40_host_interface.md R131 to R133, 60_exceptions.md R311). -/

namespace Sys2Proof.Machine

/-- BUS_ERROR_SIZE0: a byte access (60_exceptions.md R311). -/
def execBusErrorSize0 (write : Bool) (s : State) : Host.Outcome State Fault Refusal := .next (raiseBusError write s)

/-- BUS_ERROR_SIZE1: a halfword access (60_exceptions.md R311). -/
def execBusErrorSize1 (write : Bool) (s : State) : Host.Outcome State Fault Refusal := .next (raiseBusError write s)

/-- BUS_ERROR_SIZE3: the reserved size (60_exceptions.md R311). -/
def execBusErrorSize3 (write : Bool) (s : State) : Host.Outcome State Fault Refusal := .next (raiseBusError write s)

/-- BUS_ERROR_MISALIGNED1 (60_exceptions.md R311). -/
def execBusErrorMisaligned1 (write : Bool) (s : State) : Host.Outcome State Fault Refusal :=
  .next (raiseBusError write s)

/-- BUS_ERROR_MISALIGNED2 (60_exceptions.md R311). -/
def execBusErrorMisaligned2 (write : Bool) (s : State) : Host.Outcome State Fault Refusal :=
  .next (raiseBusError write s)

/-- BUS_ERROR_MISALIGNED3 (60_exceptions.md R311). -/
def execBusErrorMisaligned3 (write : Bool) (s : State) : Host.Outcome State Fault Refusal :=
  .next (raiseBusError write s)

/-- STATUS_W1C (40_host_interface.md R133). -/
def execStatusW1c (data : Word) (s : State) : Host.Outcome State Fault Refusal :=
  .next (respond { s with status := clearFlags data s.status } (.ok none))

/-- BUS_READ: no state of the LQE changes (40_host_interface.md R131). -/
def execBusRead (addr : Addr) (s : State) : Host.Outcome State Fault Refusal :=
  .next (respond s (.ok (some (readWord s addr))))

/-- BUS_WRITE (40_host_interface.md R132). -/
def execBusWrite (addr : Addr) (data : Word) (s : State) : Host.Outcome State Fault Refusal :=
  .next (respond (writeWord s addr data) (.ok none))

end Sys2Proof.Machine
end

