-- ==== Sys2Proof/Machine/Command.lean ====
section
/-! DEFINITION. The commands but STEP: NOP, EVT_PUSH, EVT_FLUSH, INIT and CMD_RESERVED (40_host_interface.md R134 to R139). -/

namespace Sys2Proof.Machine

/-- The command completes; a write has no read data. -/
def commandDone (s : State) : Host.Outcome State Fault Refusal := .next (respond s (.ok none))

/-- NOP (40_host_interface.md R135). -/
def execNop (s : State) : Host.Outcome State Fault Refusal := commandDone s

/-- The event in the staging registers (40_host_interface.md R136). -/
def stagedEvent (s : State) : Event := ⟨s.evtId, s.evtValue, s.evtStatus, s.evtTs⟩

/-- The staged event is queued; a full FIFO drops it and sets EVT_OVF (40_host_interface.md R136). -/
def pushEvent (s : State) : State :=
  if s.fifo.length < s.maxEvents then { s with fifo := s.fifo ++ [stagedEvent s] } else setEvtOvf s

/-- EVT_PUSH (40_host_interface.md R136). -/
def execEvtPush (s : State) : Host.Outcome State Fault Refusal := commandDone (pushEvent s)

/-- EVT_FLUSH (40_host_interface.md R137). -/
def execEvtFlush (s : State) : Host.Outcome State Fault Refusal := commandDone { s with fifo := [] }

/-- INIT (40_host_interface.md R138). -/
def execInit (s : State) : Host.Outcome State Fault Refusal := commandDone (resetAll s)

/-- CMD_RESERVED (40_host_interface.md R139). -/
def execCmdReserved (s : State) : Host.Outcome State Fault Refusal := commandDone (setCmdErr s)

end Sys2Proof.Machine
end

