-- ==== Sys2Proof/Machine/Ingest.lean ====
section
/-! DEFINITION. Phase 0, the prologue, and Phase 1, the event multiplexer with its fast path (41_ingestion.md). -/

namespace Sys2Proof.Machine

/-- Phase 0: both buffers emptied, every dirty flag cleared; the sticky flags stay (41_ingestion.md R170 to R172). -/
def prologue (s : State) : State :=
  { s with outs := [], wakes := [], sigs := s.sigs.map fun g => { g with updated := false } }

/-- The signal write of an event: `updated` is assigned, not ORed (41_ingestion.md R175). -/
def ingestSignal (e : Event) (g : Signal) : Signal :=
  { g with value := e.value, status := e.status, ts := e.ts, updated := e.value != g.value }

/-- INGEST_ONE (41_ingestion.md R175). -/
def ingestOne (e : Event) (s : State) : State :=
  setSig s e.id.toNat (ingestSignal e (sigAt s e.id.toNat))

/-- The monitors the fast path of event `e` trips (41_ingestion.md R176). -/
def fastTrips (s : State) (e : Event) (k : Monitor) : Bool :=
  monValid s k && k.watch == e.id && k.ctrl.chkRange && k.ctrl.wakeEn && outOfRange k e.value

/-- The fast path of event `e` at monitor `k` (41_ingestion.md R176). -/
def fastCheck (e : Event) (k : Nat) (s : State) : State :=
  if fastTrips s e (monAt s k) then emitWake k e.value (monAt s k).level false s else s

/-- FAST_PATH: monitors in ascending index (41_ingestion.md R176). -/
def fastPath (e : Event) (s : State) : State := ascending s.mons.length (fastCheck e) s

/-- One event of Phase 1; an id out of range is discarded (41_ingestion.md R173, R174). -/
def ingestEvent (s : State) (e : Event) : State :=
  if sigInRange s e.id then fastPath e (ingestOne e s) else s

/-- Phase 1: the queued events in push order, then the FIFO is empty (41_ingestion.md R173). -/
def ingest (s : State) : State := { s.fifo.foldl ingestEvent s with fifo := [] }

end Sys2Proof.Machine
end

