-- ==== Sys2Proof/Machine/Merge.lean ====
section
/-! DEFINITION. Phase 3, the voting / redundancy merge engine, and the meanings of the METHOD rows: the selectors the
engine runs for the merge entry it stands at (43_merge_voter.md). All arithmetic is in the integers (R213). -/

namespace Sys2Proof.Machine

/-! ### The voting methods -/

/-- `min(V)`. -/
def listMin (v : List Int) : Int := v.min?.getD 0

/-- `max(V)`. -/
def listMax (v : List Int) : Int := v.max?.getD 0

/-- `sort(V)`, ascending. -/
def sortInts (v : List Int) : List Int := v.insertionSort (· ≤ ·)

/-- MIN (43_merge_voter.md R204). -/
def voteMin (v : List Int) (_tol : Nat) : Int × Status := (listMin v, .ok)

/-- MAX (43_merge_voter.md R205). -/
def voteMax (v : List Int) (_tol : Nat) : Int × Status := (listMax v, .ok)

/-- AVERAGE: the exact sum, truncated toward zero (43_merge_voter.md R206). -/
def voteAverage (v : List Int) (_tol : Nat) : Int × Status := (v.sum.tdiv v.length, .ok)

/-- The median: the middle element, or the floor of the mean of the two central ones (43_merge_voter.md R207). -/
def medianOf (v : List Int) : Int :=
  let w := sortInts v
  let n := v.length
  if n % 2 = 1 then w.getD ((n - 1) / 2) 0
  else (w.getD (n / 2 - 1) 0 + w.getD (n / 2) 0).fdiv 2

/-- MEDIAN (43_merge_voter.md R207). -/
def voteMedian (v : List Int) (_tol : Nat) : Int × Status := (medianOf v, .ok)

/-- How many values lie within `tol` of the median, inclusive and with repeats (43_merge_voter.md R208). -/
def nearMedian (v : List Int) (tol : Nat) : Nat := v.countP fun x => decide ((x - medianOf v).natAbs ≤ tol)

/-- MAJORITY: the quorum is `ceil(n/2)`; the median is published either way (43_merge_voter.md R208). -/
def voteMajority (v : List Int) (tol : Nat) : Int × Status :=
  (medianOf v, if (v.length + 1) / 2 ≤ nearMedian v tol then .ok else .inconsistent)

/-- TOL_OVERRIDE, for every method (43_merge_voter.md R209). -/
def tolOverride (st : Status) (v : List Int) (tol : Nat) : Status :=
  if 1 < v.length ∧ 0 < tol ∧ (tol : Int) < listMax v - listMin v then .inconsistent else st

/-! ### One merge entry -/

/-- The input slots in use, `IN[0]` to `IN[NIN-1]` (10_state.md R43). -/
def usedSlots (nin : BitVec 4) (e : MergeEntry) : List SigId := e.slots.toList.take nin.toNat

/-- The skip conditions that do not depend on the method (43_merge_voter.md R201). -/
def mergeSkip (s : State) (en : Bool) (nin : BitVec 4) (e : MergeEntry) : Bool :=
  !en || !sigInRange s e.outId || (usedSlots nin e).contains e.outId

/-- VALID_INPUTS: slots in order, with repeats (43_merge_voter.md R202). -/
def validInputs (s : State) (nin : BitVec 4) (e : MergeEntry) : List Int :=
  (usedSlots nin e).filterMap fun i =>
    if sigInRange s i && (sigAt s i.toNat).status == .ok then some (sigAt s i.toNat).value.toInt else none

/-- MERGE_EMPTY: the status only (43_merge_voter.md R203). -/
def mergeEmpty (e : MergeEntry) (s : State) : State :=
  setSig s e.outId.toNat { sigAt s e.outId.toNat with status := .error }

/-- MERGE_WRITE: value, status, timestamp and `updated` (43_merge_voter.md R210). -/
def mergeWrite (e : MergeEntry) (r : Int) (st : Status) (n : U64) (s : State) : State :=
  setSig s e.outId.toNat
    { sigAt s e.outId.toNat with value := BitVec.ofInt 32 r, status := st, ts := n, updated := true }

/-- The vote of a merge that is not skipped (43_merge_voter.md R200). -/
def mergeVote (vote : List Int → Nat → Int × Status) (nin : BitVec 4) (e : MergeEntry) (n : U64) (s : State) : State :=
  let v := validInputs s nin e
  if v = [] then mergeEmpty e s
  else
    let res := vote v e.tol.toNat
    mergeWrite e res.1 (tolOverride res.2 v e.tol.toNat) n s

/-- One pass of the engine over entry `m` under a voting method (43_merge_voter.md R200, R201). -/
def mergePass (vote : List Int → Nat → Int × Status) (en : Bool) (nin : BitVec 4) (n : U64) (m : Nat) (s : State) :
    State :=
  match s.mrgs[m]? with
  | none => s
  | some e => if mergeSkip s en nin e then s else mergeVote vote nin e n s

/-- Entry `m` of Phase 3, by its METHOD; the codes 5, 6 and 7 are skipped (43_merge_voter.md R200, R201). -/
def mergeEntry (n : U64) (m : Nat) (s : State) : State :=
  match s.mrgs[m]? with
  | none => s
  | some e =>
    match e.method.toNat with
    | 0 => mergePass voteMin e.en e.nin n m s
    | 1 => mergePass voteMax e.en e.nin n m s
    | 2 => mergePass voteAverage e.en e.nin n m s
    | 3 => mergePass voteMedian e.en e.nin n m s
    | 4 => mergePass voteMajority e.en e.nin n m s
    | _ => s

/-- Phase 3: entries in ascending index (43_merge_voter.md R200). -/
def mergePhase (n : U64) (s : State) : State := ascending s.mrgs.length (mergeEntry n) s

/-! ### The METHOD rows -/

/-- Runs `f n m` for the entry `m` that the engine stands at in a step with time `n`. DESIGN CHOICE (log 8): outside
Phase 3 no merge is in progress, and a selector acts on nothing. -/
def atMergeEntry (f : U64 → Nat → State → State) (s : State) : State :=
  match s.seq with
  | .running (.merge m) n => f n m s
  | _ => s

/-- METHOD_MIN (43_merge_voter.md R204). -/
def execMethodMin (en : Bool) (nin : BitVec 4) (s : State) : Host.Outcome State Fault Refusal :=
  .next (atMergeEntry (mergePass voteMin en nin) s)

/-- METHOD_MAX (43_merge_voter.md R205). -/
def execMethodMax (en : Bool) (nin : BitVec 4) (s : State) : Host.Outcome State Fault Refusal :=
  .next (atMergeEntry (mergePass voteMax en nin) s)

/-- METHOD_AVERAGE (43_merge_voter.md R206). -/
def execMethodAverage (en : Bool) (nin : BitVec 4) (s : State) : Host.Outcome State Fault Refusal :=
  .next (atMergeEntry (mergePass voteAverage en nin) s)

/-- METHOD_MEDIAN (43_merge_voter.md R207). -/
def execMethodMedian (en : Bool) (nin : BitVec 4) (s : State) : Host.Outcome State Fault Refusal :=
  .next (atMergeEntry (mergePass voteMedian en nin) s)

/-- METHOD_MAJORITY (43_merge_voter.md R208). -/
def execMethodMajority (en : Bool) (nin : BitVec 4) (s : State) : Host.Outcome State Fault Refusal :=
  .next (atMergeEntry (mergePass voteMajority en nin) s)

/-- METHOD_RESERVED5: the merge is skipped and writes nothing (43_merge_voter.md R201). -/
def execMethodReserved5 (s : State) : Host.Outcome State Fault Refusal := .next s

/-- METHOD_RESERVED6: the merge is skipped and writes nothing (43_merge_voter.md R201). -/
def execMethodReserved6 (s : State) : Host.Outcome State Fault Refusal := .next s

/-- METHOD_RESERVED7: the merge is skipped and writes nothing (43_merge_voter.md R201). -/
def execMethodReserved7 (s : State) : Host.Outcome State Fault Refusal := .next s

end Sys2Proof.Machine
end

