-- ==== Sys2Proof/Machine/Monitor.lean ====
section
/-! DEFINITION. Phase 4, the fault monitors and the limp-home state machine (44_fault_monitor.md). -/

namespace Sys2Proof.Machine

/-! ### Triggers -/

/-- T_STALE (44_fault_monitor.md R243). -/
def trigStale (n : U64) (k : Monitor) (w : Signal) : Bool :=
  k.ctrl.chkStale && decide (k.staleTo.toNat < satSub n w.ts)

/-- T_RANGE (44_fault_monitor.md R244). -/
def trigRange (k : Monitor) (w : Signal) : Bool := k.ctrl.chkRange && outOfRange k w.value

/-- T_STATUS: ERROR, INCONSISTENT or OUT_OF_RANGE (44_fault_monitor.md R245). -/
def trigStatus (k : Monitor) (w : Signal) : Bool :=
  k.ctrl.chkStatus && (w.status == .error || w.status == .inconsistent || w.status == .outOfRange)

/-- FAULT_DETECT (44_fault_monitor.md R242). -/
def faultDetect (n : U64) (k : Monitor) (w : Signal) : Bool :=
  trigStale n k w || trigRange k w || trigStatus k w

/-! ### Fault output, wake, fault memory -/

/-- The level written to the fault output; 0 is the "no fault" level (44_fault_monitor.md R246). -/
def faultLevel (k : Monitor) (f : Bool) : Word := if f then k.level else 0#32

/-- FAULT_OUTPUT (44_fault_monitor.md R246). -/
def faultOutput (n : U64) (k : Monitor) (f : Bool) (s : State) : State :=
  let g := sigAt s k.fout.toNat
  setSig s k.fout.toNat
    { g with value := faultLevel k f, status := .ok, ts := n,
             updated := if g.value != faultLevel k f then true else g.updated }

/-- CYCLE_WAKE: one record per rising edge of the fault (44_fault_monitor.md R247). -/
def cycleWake (i : Nat) (k : Monitor) (f : Bool) (s : State) : State :=
  if k.ctrl.cycWakeEn && k.ctrl.wakeEn && f && !k.faultActive then
    emitWake i (sigAt s k.watch.toNat).value k.level true s
  else s

/-- `MON[i].FAULT_ACTIVE <- f` (44_fault_monitor.md R248). -/
def faultMemory (i : Nat) (f : Bool) (s : State) : State :=
  setMon s i { monAt s i with faultActive := f }

/-! ### The limp-home state machine -/

/-- `Nms = N div 1000` (40_host_interface.md R151). -/
def stepMs (n : U64) : U64 := BitVec.ofNat 64 (n.toNat / 1000)

/-- SNAPSHOT (44_fault_monitor.md R250). -/
def snapshot (k : Monitor) (x : Xform) : Monitor :=
  { k with svScale := x.scale, svMin := x.clampMin, svMax := x.clampMax, svHasMin := x.hasMin, svHasMax := x.hasMax }

/-- OVERRIDE: only the enabled limp values (44_fault_monitor.md R251). -/
def limpOverride (k : Monitor) (x : Xform) : Xform :=
  { x with
    scale := if k.ctrl.limpScaleEn then k.limpScale else x.scale
    clampMin := if k.ctrl.limpMinEn then k.limpMin else x.clampMin
    hasMin := if k.ctrl.limpMinEn then true else x.hasMin
    clampMax := if k.ctrl.limpMaxEn then k.limpMax else x.clampMax
    hasMax := if k.ctrl.limpMaxEn then true else x.hasMax }

/-- RESTORE: all five fields (44_fault_monitor.md R253). -/
def limpRestore (k : Monitor) (x : Xform) : Xform :=
  { x with scale := k.svScale, clampMin := k.svMin, clampMax := k.svMax, hasMin := k.svHasMin, hasMax := k.svHasMax }

/-- "Delay elapsed" (44_fault_monitor.md R249, R253). -/
def delayElapsed (n : U64) (k : Monitor) : Bool := decide (k.restoreMs.toNat ≤ satSub (stepMs n) k.fctMs)

/-- The machine runs; otherwise it is frozen (44_fault_monitor.md R249). -/
def limpRuns (s : State) (k : Monitor) : Bool := k.ctrl.limpEn && decide (k.target.toNat < s.xfs.length)

/-- LIMP_FSM of monitor `i` (44_fault_monitor.md R249 to R254). -/
def limpFsm (n : U64) (f : Bool) (i : Nat) (s : State) : State :=
  let k := monAt s i
  let t := k.target.toNat
  let x := xfAt s t
  if !limpRuns s k then s
  else if !k.limpActive then
    if f then
      setXf (setMon s i { snapshot k x with limpActive := true, fctMs := stepMs n }) t (limpOverride k x)
    else setMon s i { k with fctMs := stepMs n }
  else if f then setMon s i { k with fctMs := stepMs n }
  else if delayElapsed n k then
    setXf (setMon s i { k with limpActive := false, fctMs := stepMs n }) t (limpRestore k x)
  else s

/-! ### The pass -/

/-- The fault that monitor `i` detects (44_fault_monitor.md R242). -/
def faultOf (n : U64) (s : State) (i : Nat) : Bool :=
  faultDetect n (monAt s i) (sigAt s (monAt s i).watch.toNat)

/-- The pass of a valid monitor (44_fault_monitor.md R241). -/
def monitorPass (n : U64) (i : Nat) (s : State) : State :=
  let f := faultOf n s i
  let s1 := faultOutput n (monAt s i) f s
  let s2 := cycleWake i (monAt s1 i) f s1
  limpFsm n f i (faultMemory i f s2)

/-- One iteration of Phase 4; an invalid monitor is passed over (44_fault_monitor.md R240, R241). -/
def monitorEntry (n : U64) (i : Nat) (s : State) : State :=
  if monValid s (monAt s i) then monitorPass n i s else s

/-- Phase 4: monitors in ascending index (44_fault_monitor.md R241). -/
def monitorPhase (n : U64) (s : State) : State := ascending s.mons.length (monitorEntry n) s

end Sys2Proof.Machine
end

