-- ==== Sys2Proof/Machine/Scheduler.lean ====
section
/-! DEFINITION. Phase 6, the output scheduler / deadline arbiter, and Phase 7, the epilogue (46_output_scheduler.md). -/

namespace Sys2Proof.Machine

/-- An enabled entry (46_output_scheduler.md R291). -/
def cycEnabled (s : State) (e : CyclicEntry) : Bool := e.period != 0#32 && sigInRange s e.src

/-- The due test, unsigned (46_output_scheduler.md R293). -/
def cycDue (n : U64) (e : CyclicEntry) : Bool := decide (e.dl.toNat ≤ n.toNat)

/-- The deadline moves by exactly one period, modulo 2^64 (46_output_scheduler.md R294). -/
def advanceDeadline (e : CyclicEntry) : CyclicEntry := { e with dl := e.dl + (0#32 ++ e.period) }

/-- A firing: the output event if there is room, and the deadline in any case (46_output_scheduler.md R290, R295). -/
def fireCyclic (n : U64) (c : Nat) (e : CyclicEntry) (s : State) : State :=
  setCyc (appendOut e.target (sigAt s e.src.toNat).value n s) c (advanceDeadline e)

/-- One iteration of Phase 6 (46_output_scheduler.md R290). -/
def cyclicEntry (n : U64) (c : Nat) (s : State) : State :=
  if cycEnabled s (cycAt s c) && cycDue n (cycAt s c) then fireCyclic n c (cycAt s c) s else s

/-- Phase 6: entries in ascending index (46_output_scheduler.md R290, R296). -/
def cyclicPhase (n : U64) (s : State) : State := ascending s.cycs.length (cyclicEntry n) s

/-- Phase 7: the step counter, modulo 2^32 (46_output_scheduler.md R299). -/
def epilogue (s : State) : State := { s with stepCnt := s.stepCnt + 1#32 }

end Sys2Proof.Machine
end

