-- ==== Sys2Proof/Machine/Staleness.lean ====
section
/-! DEFINITION. Phase 2, the staleness detector (42_staleness.md). -/

namespace Sys2Proof.Machine

/-- The threshold test: 0 disables it, and the comparison is strict (42_staleness.md R190). -/
def isStale (n : U64) (g : Signal) : Bool :=
  decide (0 < g.thresh.toNat) && decide (g.thresh.toNat < satSub n g.ts)

/-- One signal of the scan: a signal already TIMEOUT is left as it is (42_staleness.md R190, R191). -/
def staleSignal (n : U64) (g : Signal) : Signal :=
  if isStale n g && g.status != .timeout then { g with status := .timeout, updated := true } else g

/-- Phase 2. An iteration touches its own signal only, so the scan is a map (42_staleness.md R190, R193). -/
def staleness (n : U64) (s : State) : State := { s with sigs := s.sigs.map (staleSignal n) }

end Sys2Proof.Machine
end

