-- ==== Sys2Proof/Machine/Transform.lean ====
section
/-! DEFINITION. Phase 5, the transform slot: the OPEN parameter `XFORM` under the contract of 45_transform_slot.md R281. -/

namespace Sys2Proof.Machine

/-- What `XFORM` may write of one signal (45_transform_slot.md R281 item 3); a status is always a legal code (item 5). -/
structure XformOut where
  value : Word
  status : Status
  ts : U64
  updated : Bool
  deriving DecidableEq, Repr, Inhabited

end Sys2Proof.Machine

namespace Sys2Proof.Config

/-- The functions a platform may supply for the OPEN parameter `XFORM` (45_transform_slot.md R280, R281), by number: what
the `k`-th gives signal `i` for a state and a step time. Uninterpreted: nothing is known of any, so a claim holds for
every `XFORM` that meets the contract (DESIGN CHOICE, log 6). -/
opaque xform : Nat → Machine.State → U64 → Nat → Machine.XformOut

end Sys2Proof.Config

namespace Sys2Proof.Machine

/-- The LQE's own state: what `XFORM` reads. The model's fields and the sequencer's position are masked (log 6). -/
def lqeView (s : State) : State := { s with seq := .idle, port := [], resp := .quiet }

/-- A transform that may write its output (45_transform_slot.md R281 item 3). -/
def xformMayRun (s : State) (x : Xform) : Bool :=
  x.en && sigInRange s x.inId && sigInRange s x.outId && x.outId != x.inId

/-- The signals `XFORM` may write (45_transform_slot.md R281 item 3). -/
def xformMayWrite (s : State) (i : Nat) : Bool :=
  s.xfs.any fun x => xformMayRun s x && x.outId.toNat == i

/-- Signal `i` after the supplied `XFORM` number `k`. -/
def xformSignal (k : Nat) (n : U64) (s : State) (i : Nat) (g : Signal) : Signal :=
  if xformMayWrite s i then
    let o := Config.xform k (lqeView s) n i
    { g with value := o.value, status := o.status, ts := o.ts, updated := o.updated }
  else g

/-- A supplied `XFORM`, as a function from state and step time to state: it writes nothing else (45_transform_slot.md
R281 item 4). -/
def xformSupplied (k : Nat) (n : U64) (s : State) : State := { s with sigs := s.sigs.mapIdx (xformSignal k n s) }

/-- The default `XFORM_ID(state, N) = state` (45_transform_slot.md R282). -/
def xformId (_n : U64) (s : State) : State := s

/-- Phase 5: the `XFORM` of the build (45_transform_slot.md R280). -/
def transformPhase (n : U64) (s : State) : State :=
  match s.xform with
  | .identity => xformId n s
  | .supplied k => xformSupplied k n s

end Sys2Proof.Machine
end

