-- ==== Sys2Proof/Machine/Sequencer.lean ====
section
/-! DEFINITION. The step sequencer: STEP as one atomic transition (40_host_interface.md R150 to R153), and the same eight
phases one at a time, for a state that stands inside a step (10_state.md R23, R67). -/

namespace Sys2Proof.Machine

/-- The eight phases in the fixed order, with the step time `n` (40_host_interface.md R150). -/
def runPhases (n : U64) (s : State) : State :=
  epilogue (cyclicPhase n (transformPhase n (monitorPhase n (mergePhase n (staleness n (ingest (prologue s)))))))

/-- A whole step: `N` is latched from `NOW`, the phases run, and the sequencer is idle again (40_host_interface.md R150,
R151; 10_state.md R23). -/
def runStep (s : State) : State := { runPhases s.now s with seq := .idle }

/-- STEP (40_host_interface.md R150): one transition from the state before it to the state after it (R153). -/
def execStep (s : State) : Host.Outcome State Fault Refusal := .next (respond (runStep s) (.ok none))

/-- The sequencer at the start of Phase 0, with `N` latched (40_host_interface.md R151). -/
def startStep (s : State) : State := { s with seq := .running .prologue s.now }

/-- The effect of one phase, or of one merge entry of Phase 3. -/
def runPhase (p : Phase) (n : U64) (s : State) : State :=
  match p with
  | .prologue => prologue s
  | .ingest => ingest s
  | .staleness => staleness n s
  | .merge m => mergeEntry n m s
  | .monitor => monitorPhase n s
  | .transform => transformPhase n s
  | .cyclic => cyclicPhase n s
  | .epilogue => epilogue s

/-- Phase 3 at entry `m`, or Phase 4 where there is no entry `m`. -/
def mergeOrMonitor (nMerges m : Nat) : Phase := if m < nMerges then .merge m else .monitor

/-- What follows a phase; none when the step is complete (40_host_interface.md R150). -/
def phaseAfter (nMerges : Nat) : Phase → Option Phase
  | .prologue => some .ingest
  | .ingest => some .staleness
  | .staleness => some (mergeOrMonitor nMerges 0)
  | .merge m => some (mergeOrMonitor nMerges (m + 1))
  | .monitor => some .transform
  | .transform => some .cyclic
  | .cyclic => some .epilogue
  | .epilogue => none

/-- The sequencer moves to the next phase, or to idle. -/
def advanceSeq (s : State) : State :=
  match s.seq with
  | .idle => s
  | .running p n =>
    match phaseAfter s.mrgs.length p with
    | some q => { s with seq := .running q n }
    | none => { s with seq := .idle }

end Sys2Proof.Machine
end

