-- ==== Sys2Proof/Machine/Dispatch.lean ====
section
/-! DEFINITION. One arm per operation of opcode_table.json, each a call of its meaning. -/

namespace Sys2Proof.Machine

def exec (i : Instr) (s : State) : Host.Outcome State Fault Refusal :=
  match i with
  | .busErrorSize0 write _ _ => Sys2Proof.Machine.execBusErrorSize0 write s
  | .busErrorSize1 write _ _ => Sys2Proof.Machine.execBusErrorSize1 write s
  | .busErrorSize3 write _ _ => Sys2Proof.Machine.execBusErrorSize3 write s
  | .busErrorMisaligned1 write _ _ => Sys2Proof.Machine.execBusErrorMisaligned1 write s
  | .busErrorMisaligned2 write _ _ => Sys2Proof.Machine.execBusErrorMisaligned2 write s
  | .busErrorMisaligned3 write _ _ => Sys2Proof.Machine.execBusErrorMisaligned3 write s
  | .nop => Sys2Proof.Machine.execNop s
  | .step => Sys2Proof.Machine.execStep s
  | .evtPush => Sys2Proof.Machine.execEvtPush s
  | .evtFlush => Sys2Proof.Machine.execEvtFlush s
  | .init => Sys2Proof.Machine.execInit s
  | .cmdReserved _ => Sys2Proof.Machine.execCmdReserved s
  | .statusW1c data => Sys2Proof.Machine.execStatusW1c data s
  | .busRead addr _ => Sys2Proof.Machine.execBusRead addr s
  | .busWrite addr data => Sys2Proof.Machine.execBusWrite addr data s
  | .methodMin en nin => Sys2Proof.Machine.execMethodMin en nin s
  | .methodMax en nin => Sys2Proof.Machine.execMethodMax en nin s
  | .methodAverage en nin => Sys2Proof.Machine.execMethodAverage en nin s
  | .methodMedian en nin => Sys2Proof.Machine.execMethodMedian en nin s
  | .methodMajority en nin => Sys2Proof.Machine.execMethodMajority en nin s
  | .methodReserved5 _ _ => Sys2Proof.Machine.execMethodReserved5 s
  | .methodReserved6 _ _ => Sys2Proof.Machine.execMethodReserved6 s
  | .methodReserved7 _ _ => Sys2Proof.Machine.execMethodReserved7 s

end Sys2Proof.Machine
end

