-- ==== Sys2Proof/Machine/Fetch.lean ====
section
/-! DEFINITION. What the machine does next: take a power-on reset, take the oldest transaction at the port, run the phase
or the merge selector the sequencer stands at, or stay idle (20_memory.md R81; 40_host_interface.md R153;
70_reset_and_hazards.md R342). -/

namespace Sys2Proof.Machine

/-- The next move of the machine. -/
inductive Fetched where
  /-- A move that is no instruction: a reset, a phase of a step, or nothing to do. -/
  | done (s : State)
  /-- A host transaction, decoded; the transaction has left the port. -/
  | transaction (i : Instr) (s : State)
  /-- The selector of the merge entry the sequencer stands at (43_merge_voter.md R200), decoded. -/
  | selector (i : Instr) (s : State)
  deriving DecidableEq, Repr

/-- The sequencer's next move inside a step; what waits at the port is held (40_host_interface.md R153). -/
def fetchPhase (p : Phase) (n : U64) (s : State) : Fetched :=
  match p with
  | .merge m =>
    match s.mrgs[m]? with
    | some e => .selector (decodeSelector (mrgCtrlWord e)) s
    | none => .done (advanceSeq s)
  | p => .done (advanceSeq (runPhase p n s))

/-- The next move: a power-on reset wins over any operation (70_reset_and_hazards.md R342), then the step that runs, then
the oldest transaction; with nothing at the port the block is idle and keeps all state (60_exceptions.md R327; log 2). -/
def fetch (s : State) : Fetched :=
  match s.port with
  | .powerOnReset :: rest => .done (powerOnReset { s with port := rest })
  | port =>
    match s.seq with
    | .running p n => fetchPhase p n s
    | .idle =>
      match port with
      | .transaction t :: rest => .transaction (decodeTransaction t) { s with port := rest }
      | _ => .done s

/-- After a merge selector has run, the sequencer moves on; a stop stays a stop. -/
def afterSelector (o : Host.Outcome State Fault Refusal) : Host.Outcome State Fault Refusal :=
  match o with
  | .next s => .next (advanceSeq s)
  | .fault r => .fault r
  | .refused r => .refused r

/-- Transaction `t` arrives at the port, the next one the block takes. -/
def offerTransaction (s : State) (t : Txn) : State := { s with seq := .idle, port := .transaction t :: s.port }

/-- MRG_CTRL of merge entry 0 holds `w`, and the sequencer stands at that entry in Phase 3 of a step whose time is `NOW`;
no power-on reset is first in line at the port. -/
def offerSelector (s : State) (w : Word) : State :=
  { s with
    mrgs := s.mrgs.set 0 (withMrgCtrl (mrgAt s 0) w)
    seq := .running (.merge 0) s.now
    port := s.port.dropWhile (· == .powerOnReset) }

end Sys2Proof.Machine
end

