-- ==== Sys2Proof/Machine/Step.lean ====
section
/-! DEFINITION. One step of the machine, and how a given instruction is placed so that the next step runs it. -/

namespace Sys2Proof.Machine

/-- One step: a host transaction, one move of the sequencer inside a step, a power-on reset, or none (00_scope.md R4). -/
def step (s : State) : Host.Outcome State Fault Refusal :=
  match fetch s with
  | .done t => .next t
  | .transaction i t => exec i t
  | .selector i t => afterSelector (exec i t)

/-- `s` with the instruction of bits `w` placed where the next step takes it: a transaction first at the port, or, for a
selector row of 32 bits or fewer, the MRG_CTRL word of the merge entry the sequencer stands at (log 3). -/
def State.withFetchWord (s : State) (nbits w : Nat) : State :=
  if nbits ≤ 32 then offerSelector s (BitVec.ofNat 32 w) else offerTransaction s (BitVec.ofNat 53 w)

end Sys2Proof.Machine
end

