-- ==== Sys2Proof/Machine/Asm.lean ====
section
/-! DEFINITION. The assembler of 30_encoding.md R114 to R116 as abstract syntax: symbolic offsets, the base forms and the
pseudo-instructions, each expanded to transactions. -/

namespace Sys2Proof.Machine

/-- The offsets of the control registers by name (10_state.md section 1, 30_encoding.md R115), and of the words of table
entries: window base + stride * index + word offset (20_memory.md R72). -/
def regOffset : Reg → Nat
  | .lqeId => 0x000
  | .capsSig => 0x004
  | .capsTbl => 0x008
  | .capsBuf => 0x00C
  | .cmd => 0x010
  | .status => 0x014
  | .irqEn => 0x018
  | .nowLo => 0x020
  | .nowHi => 0x024
  | .stepCnt => 0x028
  | .evtId => 0x030
  | .evtValue => 0x034
  | .evtStatus => 0x038
  | .evtTsLo => 0x03C
  | .evtTsHi => 0x040
  | .evtCount => 0x044
  | .outCount => 0x048
  | .wakeCount => 0x04C
  | .out i f => 0x1000 + 16 * i + (match f with | .target => 0x0 | .value => 0x4 | .tsLo => 0x8 | .tsHi => 0xC)
  | .wake i f => 0x2000 + 16 * i + (match f with | .monitor => 0x0 | .value => 0x4 | .level => 0x8 | .src => 0xC)
  | .mrg m f => 0x4000 + 64 * m + (match f with
      | .ctrl => 0x00 | .out => 0x04 | .tol => 0x08 | .in0 => 0x10 | .in1 => 0x14 | .in2 => 0x18 | .in3 => 0x1C
      | .in4 => 0x20 | .in5 => 0x24 | .in6 => 0x28 | .in7 => 0x2C)
  | .mon k f => 0x8000 + 128 * k + (match f with
      | .ctrl => 0x00 | .watch => 0x04 | .fout => 0x08 | .staleTo => 0x0C | .minV => 0x10 | .maxV => 0x14
      | .level => 0x18 | .target => 0x1C | .limpScale => 0x20 | .limpMin => 0x24 | .limpMax => 0x28
      | .restoreMs => 0x2C | .rt => 0x30 | .svScale => 0x34 | .svMin => 0x38 | .svMax => 0x3C
      | .fctLo => 0x40 | .fctHi => 0x44)
  | .cyc c f => 0x10000 + 32 * c + (match f with
      | .src => 0x00 | .target => 0x04 | .period => 0x08 | .dlLo => 0x10 | .dlHi => 0x14)
  | .xf t f => 0x12000 + 32 * t + (match f with
      | .ctrl => 0x00 | .inId => 0x04 | .outId => 0x08 | .scale => 0x0C | .clampMin => 0x10 | .clampMax => 0x14)
  | .sig i f => 0x20000 + 32 * i + (match f with
      | .value => 0x00 | .status => 0x04 | .tsLo => 0x08 | .tsHi => 0x0C | .thresh => 0x10)

/-- An OFFSET operand: a number or a symbolic offset (30_encoding.md R114, R115). -/
inductive AsmOffset where
  | num (a : Nat)
  | sym (r : Reg)
  deriving DecidableEq, Repr

/-- The command names (30_encoding.md R104, R114). -/
inductive CmdName where
  | nop | step | evtPush | evtFlush | init
  deriving DecidableEq, Repr

/-- One line of a host program: the base forms and the pseudo-instructions (30_encoding.md R114, R116). A data operand
is an integer: an unsigned number, or a negative one for its two's complement pattern. -/
inductive AsmLine where
  | rd (off : AsmOffset)
  | wr (off : AsmOffset) (data : Int)
  | cmd (name : CmdName)
  | wr64 (offLo : AsmOffset) (v : Nat)
  | now (v : Nat)
  | evt (id value : Int) (status : Status) (ts : Nat)
  | stepAt (v : Nat)
  | ack (bits : Int)
  | mrgctl (m : Nat) (en method nin : Nat)
  deriving DecidableEq, Repr

/-- The byte offset of an operand. -/
def offsetOf : AsmOffset → Nat
  | .num a => a
  | .sym r => regOffset r

/-- The command opcodes (30_encoding.md R104). -/
def opcodeOf : CmdName → Word
  | .nop => 0#32
  | .step => 1#32
  | .evtPush => 2#32
  | .evtFlush => 3#32
  | .init => 4#32

/-- `rd OFFSET` (30_encoding.md R114). -/
def asmRd (o : Nat) : Txn := mkTxn false 2#2 (BitVec.ofNat 18 o) 0#32

/-- `wr OFFSET, DATA` (30_encoding.md R114). -/
def asmWr (o : Nat) (w : Word) : Txn := mkTxn true 2#2 (BitVec.ofNat 18 o) w

/-- `wr64 OFF_LO, V` (30_encoding.md R116). -/
def asmWr64 (o : Nat) (v : U64) : List Txn := [asmWr o (loWord v), asmWr (o + 4) (hiWord v)]

/-- The transactions of a line, in order (30_encoding.md R114, R116). -/
def assemble : AsmLine → List Txn
  | .rd off => [asmRd (offsetOf off)]
  | .wr off data => [asmWr (offsetOf off) (BitVec.ofInt 32 data)]
  | .cmd name => [asmWr 0x010 (opcodeOf name)]
  | .wr64 offLo v => asmWr64 (offsetOf offLo) (BitVec.ofNat 64 v)
  | .now v => asmWr64 0x020 (BitVec.ofNat 64 v)
  | .evt id value status ts =>
    [asmWr 0x030 (BitVec.ofInt 32 id), asmWr 0x034 (BitVec.ofInt 32 value), asmWr 0x038 (statusWord status)] ++
      asmWr64 0x03C (BitVec.ofNat 64 ts) ++ [asmWr 0x010 (opcodeOf .evtPush)]
  | .stepAt v => asmWr64 0x020 (BitVec.ofNat 64 v) ++ [asmWr 0x010 (opcodeOf .step)]
  | .ack bits => [asmWr 0x014 (BitVec.ofInt 32 bits)]
  | .mrgctl m en method nin => [asmWr (0x4000 + 64 * m) (BitVec.ofNat 32 (en + method * 16 + nin * 256))]

/-- A host program: its transactions in order, as they wait at the port (30_encoding.md R114). -/
def assembleAll (lines : List AsmLine) : List PortEvent := (lines.flatMap assemble).map .transaction

end Sys2Proof.Machine
end

