-- ==== Sys2Proof/Safety.lean ====
section
/-! DEFINITION. The terms of claims about runs: the invariant of the machine's states, and the predicate
`WF_SINGLE_WRITER` that a claim about the source's ordering guarantee may assume (70_reset_and_hazards.md R353). -/

namespace Sys2Proof.Machine

/-- What holds at reset and every step keeps: the capacities are legal (00_scope.md R5), the FIFO and the buffers hold at
most their capacity (10_state.md R33, R34, R35), and every `NIN` is 0..8 (10_state.md R43). -/
abbrev State.Inv (s : State) : Prop :=
  s.params.legal ∧ s.fifo.length ≤ s.maxEvents ∧ s.outs.length ≤ s.maxOutputEvents ∧ s.wakes.length ≤ s.maxWake ∧
  ∀ e ∈ s.mrgs, e.nin.toNat ≤ 8

/-- The RW bits of a word whose written bits are stored as written (10_state.md); none for the words with a WARL field
(EVT_STATUS, SIG_STATUS, MRG_CTRL), the read-only words, STATUS and CMD. -/
def rwMask : Reg → Option Word
  | .irqEn => some 0x00000001#32
  | .nowLo | .nowHi | .evtValue | .evtTsLo | .evtTsHi => some 0xFFFFFFFF#32
  | .evtId => some 0x0000FFFF#32
  | .mrg _ .tol => some 0xFFFFFFFF#32
  | .mrg _ .out | .mrg _ .in0 | .mrg _ .in1 | .mrg _ .in2 | .mrg _ .in3 | .mrg _ .in4 | .mrg _ .in5 | .mrg _ .in6
  | .mrg _ .in7 => some 0x0000FFFF#32
  | .mon _ .ctrl => some 0x00000F3F#32
  | .mon _ .watch | .mon _ .fout => some 0x0000FFFF#32
  | .mon _ .target => some 0x000000FF#32
  | .mon _ .staleTo | .mon _ .minV | .mon _ .maxV | .mon _ .level | .mon _ .limpScale | .mon _ .limpMin
  | .mon _ .limpMax | .mon _ .restoreMs => some 0xFFFFFFFF#32
  | .cyc _ .src => some 0x0000FFFF#32
  | .cyc _ .target | .cyc _ .period | .cyc _ .dlLo | .cyc _ .dlHi => some 0xFFFFFFFF#32
  | .xf _ .ctrl => some 0x00000007#32
  | .xf _ .inId | .xf _ .outId => some 0x0000FFFF#32
  | .xf _ .scale | .xf _ .clampMin | .xf _ .clampMax => some 0xFFFFFFFF#32
  | .sig _ .value | .sig _ .tsLo | .sig _ .tsHi | .sig _ .thresh => some 0xFFFFFFFF#32
  | _ => none

/-- The read-only words (40_host_interface.md R132). -/
def readOnlyWord : Reg → Bool
  | .lqeId | .capsSig | .capsTbl | .capsBuf | .stepCnt | .evtCount | .outCount | .wakeCount => true
  | .out _ _ | .wake _ _ => true
  | .mon _ .rt | .mon _ .svScale | .mon _ .svMin | .mon _ .svMax | .mon _ .fctLo | .mon _ .fctHi => true
  | _ => false

/-- The byte offset of a named word, as an address (20_memory.md R72). -/
def addrOf (r : Reg) : Addr := BitVec.ofNat 18 (regOffset r)

/-- A writer or reader of a signal in one step: `(phase, index)` (70_reset_and_hazards.md R353). -/
abbrev Position := Nat × Nat

/-- Lexicographic order on positions (70_reset_and_hazards.md R353). -/
def positionBefore (a b : Position) : Bool := decide (a.1 < b.1) || (a.1 == b.1 && decide (a.2 < b.2))

/-- The indices of a table whose entries satisfy `p`, as positions of `phase`. -/
def positionsWhere (phase : Nat) (p : α → Bool) (table : List α) : List Position :=
  (table.zipIdx.filter fun e => p e.1).map fun e => (phase, e.2)

/-- A merge that is not skipped, its reserved methods included (43_merge_voter.md R201). -/
def mergeRuns (s : State) (e : MergeEntry) : Bool := decide (e.method.toNat ≤ 4) && !mergeSkip s e.en e.nin e

/-- The writers of signal `i` (70_reset_and_hazards.md R353). -/
def writersOf (s : State) (i : SigId) : List Position :=
  positionsWhere 3 (fun e => mergeRuns s e && e.outId == i) s.mrgs ++
  positionsWhere 4 (fun k => monValid s k && k.fout == i) s.mons ++
  positionsWhere 5 (fun x => xformMayRun s x && x.outId == i) s.xfs

/-- The readers of signal `i` (70_reset_and_hazards.md R353). -/
def readersOf (s : State) (i : SigId) : List Position :=
  positionsWhere 3 (fun e => mergeRuns s e && (usedSlots e.nin e).contains i) s.mrgs ++
  positionsWhere 4 (fun k => monValid s k && k.watch == i) s.mons ++
  positionsWhere 6 (fun e => cycEnabled s e && e.src == i) s.cycs

/-- One signal of `WF_SINGLE_WRITER`. -/
def singleWriterAt (s : State) (i : SigId) : Bool :=
  decide ((writersOf s i).length ≤ 1) &&
  (writersOf s i).all (fun w => (readersOf s i).all (positionBefore w)) &&
  ((writersOf s i).isEmpty || s.fifo.all fun e => e.id != i)

/-- `WF_SINGLE_WRITER(state)` (70_reset_and_hazards.md R353): not checked by the hardware. -/
def singleWriter (s : State) : Bool := (List.range s.sigs.length).all fun i => singleWriterAt s (BitVec.ofNat 16 i)

end Sys2Proof.Machine
end

