-- ==== Sys2Proof/Certificates/Slice0/Obligations.lean ====
section
/-! DEFINITION. The statements about the LQE for the provers, in the order of OBLIGATIONS.json. In all of them `port` and
`resp`, and the steps of `seq` inside a STEP, are the model's own (log 1, log 4, log 7): what a clause says of them is the
model's choice and formalises no rule. `State.reset`'s capacities and its `XFORM` are the model's choice too (log 5). -/

open Sys2Proof Sys2Proof.Machine

/-! ### Encoding -/

/-- 30_encoding.md sections 1 to 3: no bit of an operation is lost by encoding it and decoding it back. -/
def Obligations.DecodeInvertsEncode : Prop :=
  ∀ i : Instr, i.wellFormed = true → decode (encode i) = i

/-- 30_encoding.md R103: every 53-bit word is exactly one well-formed operation, found by the four lines in order, and
encodes back to itself. -/
def Obligations.TransactionDecodesByPriority : Prop :=
  (∀ (write : Bool) (size : BitVec 2) (addr : Addr) (data : Word),
    let i := decodeTransaction (mkTxn write size addr data)
    if size ≠ 2#2 ∨ addr.extractLsb' 0 2 ≠ 0#2 then
      i = .busErrorSize0 write addr data ∨ i = .busErrorSize1 write addr data ∨ i = .busErrorSize3 write addr data ∨
      i = .busErrorMisaligned1 write addr data ∨ i = .busErrorMisaligned2 write addr data ∨
      i = .busErrorMisaligned3 write addr data
    else if write = true ∧ addr = 0x010#18 then i = decodeCommand data
    else if write = false then i = .busRead addr data
    else i = (if addr = 0x014#18 then .statusW1c data else .busWrite addr data)) ∧
  (∀ t : Txn, (decodeTransaction t).wellFormed = true ∧ encode (decodeTransaction t) = .transaction t)

/-- Words of 95_test_vectors.md and opcode_table.json, one or more a family, decode to what they stand for. -/
def Obligations.SpecWordsDecode : Prop :=
  decodeTableWord 56 0x04000000000000 = some (.busErrorSize1 false 0x00000#18 0#32) ∧
  decodeTableWord 56 0x18001100000001 = some (.busErrorMisaligned1 true 0x00011#18 1#32) ∧
  decodeTableWord 56 0x18001000000001 = some .step ∧
  decodeTableWord 56 0x18001000000101 = some (.cmdReserved 0x101#32) ∧
  decodeTableWord 56 0x18001400000002 = some (.statusW1c 2#32) ∧
  decodeTableWord 56 0x0A006000000000 = some (.busRead 0x20060#18 0#32) ∧
  decodeTableWord 56 0x1A0060FFFFFFFB = some (.busWrite 0x20060#18 0xFFFFFFFB#32) ∧
  decodeTableWord 32 0x00000331 = some (.methodMedian true 3#4) ∧
  decodeTableWord 32 0x00000361 = some (.methodReserved6 true 3#4)

/-- 30_encoding.md R109 and R110: a write of `MRG(m).CTRL` stores METHOD as written and NIN up to 8, the word reads back
so, the engine then fetches the selector of the written word, and a reserved method is skipped by Phase 3. -/
def Obligations.MrgCtrlWriteStoresSelector : Prop :=
  ∀ (s : State) (m : Nat) (w : Word), s.params.legal → m < s.mrgs.length →
    ∃ t, exec (.busWrite (addrOf (.mrg m .ctrl)) w) s = .next t ∧
      (mrgAt t m).en = w.getLsbD 0 ∧ (mrgAt t m).method = w.extractLsb' 4 3 ∧
      (mrgAt t m).nin = (if (w.extractLsb' 8 4).toNat ≤ 8 then w.extractLsb' 8 4 else 8#4) ∧
      readWord t (addrOf (.mrg m .ctrl)) = mkSelector (mrgAt t m).en (mrgAt t m).method (mrgAt t m).nin ∧
      decodeSelector (mrgCtrlWord (mrgAt t m)) = decodeSelector w ∧
      (5 ≤ (w.extractLsb' 4 3).toNat → ∀ n, mergeEntry n m t = t)

/-! ### The step function -/

/-- One step at an idle block takes the oldest transaction and is `exec` of the operation it decodes to; inside Phase 3 it
is `exec` of the selector of the entry the sequencer stands at, after which the sequencer moves on; with nothing at the
port it changes nothing. Each decoded operation is well-formed. -/
def Obligations.StepRunsDecodedInstruction : Prop :=
  (∀ (s : State) (t : Txn) (rest : List PortEvent), s.seq = .idle → s.port = .transaction t :: rest →
    (decodeTransaction t).wellFormed = true ∧ step s = exec (decodeTransaction t) { s with port := rest }) ∧
  (∀ (s : State) (m : Nat) (n : U64) (e : MergeEntry), s.seq = .running (.merge m) n → s.mrgs[m]? = some e →
    s.port.head? ≠ some .powerOnReset →
    (decodeSelector (mrgCtrlWord e)).wellFormed = true ∧
    step s = afterSelector (exec (decodeSelector (mrgCtrlWord e)) s)) ∧
  (∀ s : State, s.seq = .idle → s.port = [] → step s = .next s)

/-! ### Bus operations -/

/-- 60_exceptions.md R311: a transaction of a wrong size or alignment ends with an ERROR response, with data 0 for a read,
and no state of the LQE changes; so does each of the six BUS_ERROR rows. -/
def Obligations.BusErrorLeavesState : Prop :=
  (∀ (s : State) (t : Txn) (rest : List PortEvent), s.seq = .idle → s.port = .transaction t :: rest →
    txnSize t ≠ 2#2 ∨ (txnAddr t).extractLsb' 0 2 ≠ 0#2 →
    step s = .next { s with port := rest, resp := .error (if txnWrite t then none else some 0#32) }) ∧
  (∀ (s : State) (write : Bool) (addr : Addr) (data : Word),
    let t : State := { s with resp := .error (if write then none else some 0#32) }
    exec (.busErrorSize0 write addr data) s = .next t ∧ exec (.busErrorSize1 write addr data) s = .next t ∧
    exec (.busErrorSize3 write addr data) s = .next t ∧ exec (.busErrorMisaligned1 write addr data) s = .next t ∧
    exec (.busErrorMisaligned2 write addr data) s = .next t ∧ exec (.busErrorMisaligned3 write addr data) s = .next t)

/-- 20_memory.md R71, R72: in a build of legal capacities every named word is read at window base + stride * index + word
offset (`regOffset`), and a read changes only the response. And what the words that no host write stores return, field by
field: STATUS, STEP_CNT, the three counts, the output and wake entries, and the runtime words of a monitor (10_state.md
R28, R31, R33 to R37, R55 to R57); CMD reads 0. -/
def Obligations.ReadsNamedWord : Prop :=
  (∀ (s : State) (r : Reg) (data : Word), s.params.legal → regExists s.params r = true →
    (addrOf r).toNat = regOffset r ∧
    exec (.busRead (addrOf r) data) s = .next { s with resp := .ok (some (readReg s r)) }) ∧
  ∀ s : State,
    readReg s .cmd = 0#32 ∧
    readReg s .status = (if s.status.evtOvf then 0x1#32 else 0#32) ||| (if s.status.wakePend then 0x2#32 else 0#32) |||
      (if s.status.wakeOvf then 0x4#32 else 0#32) ||| (if s.status.cmdErr then 0x8#32 else 0#32) ∧
    readReg s .stepCnt = s.stepCnt ∧ readReg s .evtCount = BitVec.ofNat 32 s.fifo.length ∧
    readReg s .outCount = BitVec.ofNat 32 s.outs.length ∧ readReg s .wakeCount = BitVec.ofNat 32 s.wakes.length ∧
    (∀ i f, s.outs.length ≤ i → readReg s (.out i f) = 0#32) ∧
    (∀ i f, s.wakes.length ≤ i → readReg s (.wake i f) = 0#32) ∧
    (∀ i o, s.outs[i]? = some o → readReg s (.out i .target) = o.target ∧ readReg s (.out i .value) = o.value ∧
      readReg s (.out i .tsLo) = o.ts.extractLsb' 0 32 ∧ readReg s (.out i .tsHi) = o.ts.extractLsb' 32 32) ∧
    (∀ i w, s.wakes[i]? = some w → readReg s (.wake i .monitor) = w.monitor.setWidth 32 ∧
      readReg s (.wake i .value) = w.value ∧ readReg s (.wake i .level) = w.level ∧
      readReg s (.wake i .src) = if w.src then 1#32 else 0#32) ∧
    ∀ i, let k := monAt s i
      readReg s (.mon i .rt) = (if k.limpActive then 0x1#32 else 0#32) ||| (if k.faultActive then 0x2#32 else 0#32) |||
        (if k.svHasMin then 0x100#32 else 0#32) ||| (if k.svHasMax then 0x200#32 else 0#32) ∧
      readReg s (.mon i .svScale) = k.svScale ∧ readReg s (.mon i .svMin) = k.svMin ∧ readReg s (.mon i .svMax) = k.svMax ∧
      readReg s (.mon i .fctLo) = k.fctMs.extractLsb' 0 32 ∧ readReg s (.mon i .fctHi) = k.fctMs.extractLsb' 32 32

/-- 20_memory.md R73: an offset that is no named word of the build reads 0 and ignores writes, without an error. -/
def Obligations.ReservedOffsetsRazWi : Prop :=
  ∀ (s : State) (addr : Addr) (data : Word), (∀ r, regExists s.params r = true → regOffset r ≠ addr.toNat) →
    exec (.busRead addr data) s = .next { s with resp := .ok (some 0#32) } ∧
    exec (.busWrite addr data) s = .next { s with resp := .ok none }

/-- 10_state.md R21: `LQE_ID` reads its constant in every state, and a write of it is ignored. -/
def Obligations.IdentityRegisterConstant : Prop :=
  ∀ (s : State) (data : Word),
    exec (.busRead 0x000#18 data) s = .next { s with resp := .ok (some 0x4C514531#32) } ∧
    exec (.busWrite 0x000#18 data) s = .next { s with resp := .ok none }

/-- 10_state.md R24, R25, R26: the capability registers read the capacities of a legal build, field by field, ignore
writes, and are constant: no step changes the capacities. -/
def Obligations.CapabilityRegisters : Prop :=
  (∀ (s : State) (data : Word), s.params.legal →
    ∃ sg tb bf : Word,
      exec (.busRead 0x004#18 data) s = .next { s with resp := .ok (some sg) } ∧
      exec (.busRead 0x008#18 data) s = .next { s with resp := .ok (some tb) } ∧
      exec (.busRead 0x00C#18 data) s = .next { s with resp := .ok (some bf) } ∧
      (sg.extractLsb' 0 16).toNat = s.params.maxSignals ∧ (sg.extractLsb' 16 16).toNat = s.params.maxEvents ∧
      (tb.extractLsb' 0 8).toNat = s.params.maxMerges ∧ (tb.extractLsb' 8 8).toNat = s.params.maxMonitors ∧
      (tb.extractLsb' 16 8).toNat = s.params.maxCyclic ∧ (tb.extractLsb' 24 8).toNat = s.params.maxTransforms ∧
      (bf.extractLsb' 0 16).toNat = s.params.maxOutputEvents ∧ (bf.extractLsb' 16 16).toNat = s.params.maxWake) ∧
  (∀ (s : State) (data : Word),
    exec (.busWrite 0x004#18 data) s = .next { s with resp := .ok none } ∧
    exec (.busWrite 0x008#18 data) s = .next { s with resp := .ok none } ∧
    exec (.busWrite 0x00C#18 data) s = .next { s with resp := .ok none }) ∧
  (∀ s t : State, step s = .next t → t.params = s.params)

/-- 40_host_interface.md R133: a word write at 0x014 clears each STATUS bit written 1; a bit written 0 is unchanged, and so
is everything else. -/
def Obligations.StatusWriteOneToClear : Prop :=
  ∀ (s : State) (data : Word),
    decodeTransaction (mkTxn true 2#2 0x014#18 data) = .statusW1c data ∧
    exec (.statusW1c data) s = .next { s with
      status := { evtOvf := s.status.evtOvf && !data.getLsbD 0, wakePend := s.status.wakePend && !data.getLsbD 1
                  wakeOvf := s.status.wakeOvf && !data.getLsbD 2, cmdErr := s.status.cmdErr && !data.getLsbD 3 }
      resp := .ok none }

/-- 40_host_interface.md R132: a write of a word of plain RW fields stores the RW bits, and the word reads them back. And
which fields every word that a host write stores is made of, bit by bit (10_state.md R29, R30, R32, R38 to R54, R58 to
R62). -/
def Obligations.WriteThenReadBack : Prop :=
  (∀ (s : State) (r : Reg) (mask data : Word), s.params.legal → regExists s.params r = true → rwMask r = some mask →
    ∃ t, exec (.busWrite (addrOf r) data) s = .next t ∧ readWord t (addrOf r) = data &&& mask) ∧
  (∀ s : State,
    readReg s .irqEn = (if s.wakeIe then 1#32 else 0#32) ∧
    readReg s .nowLo = s.now.extractLsb' 0 32 ∧ readReg s .nowHi = s.now.extractLsb' 32 32 ∧
    readReg s .evtId = s.evtId.setWidth 32 ∧ readReg s .evtValue = s.evtValue ∧
    readReg s .evtStatus = (statusCode s.evtStatus).setWidth 32 ∧
    readReg s .evtTsLo = s.evtTs.extractLsb' 0 32 ∧ readReg s .evtTsHi = s.evtTs.extractLsb' 32 32) ∧
  (∀ (s : State) (i : Nat), let g := sigAt s i
    readReg s (.sig i .value) = g.value ∧
    readReg s (.sig i .status) = (statusCode g.status).setWidth 32 ||| (if g.updated then 0x100#32 else 0#32) ∧
    readReg s (.sig i .tsLo) = g.ts.extractLsb' 0 32 ∧ readReg s (.sig i .tsHi) = g.ts.extractLsb' 32 32 ∧
    readReg s (.sig i .thresh) = g.thresh) ∧
  (∀ (s : State) (m : Nat), let e := mrgAt s m
    readReg s (.mrg m .ctrl) =
      (if e.en then 0x1#32 else 0#32) ||| e.method.setWidth 32 <<< 4 ||| e.nin.setWidth 32 <<< 8 ∧
    readReg s (.mrg m .out) = e.outId.setWidth 32 ∧ readReg s (.mrg m .tol) = e.tol ∧
    readReg s (.mrg m .in0) = e.slots.in0.setWidth 32 ∧ readReg s (.mrg m .in1) = e.slots.in1.setWidth 32 ∧
    readReg s (.mrg m .in2) = e.slots.in2.setWidth 32 ∧ readReg s (.mrg m .in3) = e.slots.in3.setWidth 32 ∧
    readReg s (.mrg m .in4) = e.slots.in4.setWidth 32 ∧ readReg s (.mrg m .in5) = e.slots.in5.setWidth 32 ∧
    readReg s (.mrg m .in6) = e.slots.in6.setWidth 32 ∧ readReg s (.mrg m .in7) = e.slots.in7.setWidth 32) ∧
  (∀ (s : State) (i : Nat), let k := monAt s i
    readReg s (.mon i .ctrl) =
      (if k.ctrl.en then 0x1#32 else 0#32) ||| (if k.ctrl.chkStale then 0x2#32 else 0#32) |||
      (if k.ctrl.chkRange then 0x4#32 else 0#32) ||| (if k.ctrl.chkStatus then 0x8#32 else 0#32) |||
      (if k.ctrl.wakeEn then 0x10#32 else 0#32) ||| (if k.ctrl.cycWakeEn then 0x20#32 else 0#32) |||
      (if k.ctrl.limpEn then 0x100#32 else 0#32) ||| (if k.ctrl.limpScaleEn then 0x200#32 else 0#32) |||
      (if k.ctrl.limpMinEn then 0x400#32 else 0#32) ||| (if k.ctrl.limpMaxEn then 0x800#32 else 0#32) ∧
    readReg s (.mon i .watch) = k.watch.setWidth 32 ∧ readReg s (.mon i .fout) = k.fout.setWidth 32 ∧
    readReg s (.mon i .staleTo) = k.staleTo ∧ readReg s (.mon i .minV) = k.minV ∧ readReg s (.mon i .maxV) = k.maxV ∧
    readReg s (.mon i .level) = k.level ∧ readReg s (.mon i .target) = k.target.setWidth 32 ∧
    readReg s (.mon i .limpScale) = k.limpScale ∧ readReg s (.mon i .limpMin) = k.limpMin ∧
    readReg s (.mon i .limpMax) = k.limpMax ∧ readReg s (.mon i .restoreMs) = k.restoreMs) ∧
  (∀ (s : State) (c : Nat), let e := cycAt s c
    readReg s (.cyc c .src) = e.src.setWidth 32 ∧ readReg s (.cyc c .target) = e.target ∧
    readReg s (.cyc c .period) = e.period ∧
    readReg s (.cyc c .dlLo) = e.dl.extractLsb' 0 32 ∧ readReg s (.cyc c .dlHi) = e.dl.extractLsb' 32 32) ∧
  (∀ (s : State) (i : Nat), let x := xfAt s i
    readReg s (.xf i .ctrl) =
      (if x.en then 0x1#32 else 0#32) ||| (if x.hasMin then 0x2#32 else 0#32) ||| (if x.hasMax then 0x4#32 else 0#32) ∧
    readReg s (.xf i .inId) = x.inId.setWidth 32 ∧ readReg s (.xf i .outId) = x.outId.setWidth 32 ∧
    readReg s (.xf i .scale) = x.scale ∧ readReg s (.xf i .clampMin) = x.clampMin ∧
    readReg s (.xf i .clampMax) = x.clampMax)

/-- 40_host_interface.md R132, 20_memory.md R79: a bus write leaves every word at any other offset, and everything that
no word shows, as it was. -/
def Obligations.BusWriteFrame : Prop :=
  ∀ (s : State) (addr : Addr) (data : Word),
    ∃ t, exec (.busWrite addr data) s = .next t ∧
      (∀ b : Addr, b ≠ addr → readWord t b = readWord s b) ∧
      t.fifo = s.fifo ∧ t.outs = s.outs ∧ t.wakes = s.wakes ∧ t.stepCnt = s.stepCnt ∧ t.seq = s.seq ∧
      t.params = s.params ∧ t.port = s.port ∧ t.resp = .ok none ∧
      (∀ i, (sigAt t i).updated = (sigAt s i).updated)

/-- 40_host_interface.md R132: a write of a read-only word is ignored. -/
def Obligations.ReadOnlyWordsIgnoreWrites : Prop :=
  ∀ (s : State) (r : Reg) (data : Word), s.params.legal → regExists s.params r = true → readOnlyWord r = true →
    exec (.busWrite (addrOf r) data) s = .next { s with resp := .ok none }

/-- 10_state.md R39, 30_encoding.md R107: a written status code 0..5 is stored, 6 and 7 store ERROR, the other bits are
ignored and read 0 (but for `updated`, which a write does not change); the codes are those of R64. -/
def Obligations.StatusFieldsAreWarl : Prop :=
  ([.ok, .degraded, .outOfRange, .error, .timeout, .inconsistent] : List Status).map (fun st => (statusCode st).toNat) =
    [0, 1, 2, 3, 4, 5] ∧
  ∀ (s : State) (data : Word), s.params.legal →
    let c := data.extractLsb' 0 3
    let legal := if c.toNat ≤ 5 then c else 3#3
    (∃ t, exec (.busWrite 0x038#18 data) s = .next t ∧ statusCode t.evtStatus = legal ∧
      readWord t 0x038#18 = legal.setWidth 32) ∧
    (∀ i, i < s.sigs.length → ∃ t, exec (.busWrite (addrOf (.sig i .status)) data) s = .next t ∧
      statusCode (sigAt t i).status = legal ∧ (sigAt t i).updated = (sigAt s i).updated ∧
      readWord t (addrOf (.sig i .status)) = legal.setWidth 32 ||| (if (sigAt s i).updated then 0x100#32 else 0#32))

/-! ### Commands and reset -/

/-- 40_host_interface.md R135: NOP, the command word 0, changes nothing but the response. -/
def Obligations.NopChangesNothing : Prop :=
  decodeTransaction (mkTxn true 2#2 0x010#18 0#32) = .nop ∧ ∀ s : State, exec .nop s = .next { s with resp := .ok none }

/-- 40_host_interface.md R136: EVT_PUSH, the command word 2, queues the staged event last; a full FIFO drops it and sets
EVT_OVF. -/
def Obligations.EvtPushQueuesOrOverflows : Prop :=
  decodeTransaction (mkTxn true 2#2 0x010#18 2#32) = .evtPush ∧ ∀ s : State, exec .evtPush s = .next
    (if s.fifo.length < s.maxEvents then
      { s with fifo := s.fifo ++ [{ id := s.evtId, value := s.evtValue, status := s.evtStatus, ts := s.evtTs }]
               resp := .ok none }
    else { s with status := { s.status with evtOvf := true }, resp := .ok none })

/-- 40_host_interface.md R137: EVT_FLUSH, the command word 3, empties the FIFO and changes no flag. -/
def Obligations.EvtFlushEmptiesFifo : Prop :=
  decodeTransaction (mkTxn true 2#2 0x010#18 3#32) = .evtFlush ∧
  ∀ s : State, exec .evtFlush s = .next { s with fifo := [], resp := .ok none }

/-- 40_host_interface.md R138, 70_reset_and_hazards.md R340: INIT, the command word 4, leaves the power-on state of the same
build; what waits at the port, which is not the LQE's, stays. -/
def Obligations.InitIsResetAll : Prop :=
  decodeTransaction (mkTxn true 2#2 0x010#18 4#32) = .init ∧
  ∀ s : State, exec .init s = .next { State.resetOf s.params with port := s.port, resp := .ok none }

/-- 40_host_interface.md R139: a write to CMD of any word but 0..4 sets CMD_ERR and changes nothing else. -/
def Obligations.ReservedCommandSetsCmdErr : Prop :=
  (∀ (s : State) (data : Word),
    exec (.cmdReserved data) s = .next { s with status := { s.status with cmdErr := true }, resp := .ok none }) ∧
  (∀ (s : State) (data : Word) (rest : List PortEvent), s.seq = .idle →
    s.port = .transaction (mkTxn true 2#2 0x010#18 data) :: rest → 5 ≤ data.toNat →
    step s = .next { s with status := { s.status with cmdErr := true }, port := rest, resp := .ok none })

/-- 70_reset_and_hazards.md R342: a power-on reset abandons whatever the sequencer does; nothing of a step survives. -/
def Obligations.PowerOnResetAbandonsStep : Prop :=
  ∀ (s : State) (rest : List PortEvent), s.port = .powerOnReset :: rest →
    step s = .next { State.resetOf s.params with port := rest }

/-- 10_state.md, the reset columns: after reset of any build every offset but LQE_ID and the capability registers
reads 0. -/
def Obligations.ResetReadsZero : Prop :=
  ∀ (p : Params) (addr : Addr), addr ≠ 0x000#18 → addr ≠ 0x004#18 → addr ≠ 0x008#18 → addr ≠ 0x00C#18 →
    readWord (State.resetOf p) addr = 0#32

/-! ### STEP -/

/-- 40_host_interface.md R150: STEP, the command word 1, runs the eight phases in the fixed order, at the time latched from
NOW (R151); the last of them counts the step and does nothing else (46_output_scheduler.md R299). -/
def Obligations.StepRunsPhasesInOrder : Prop :=
  decodeTransaction (mkTxn true 2#2 0x010#18 1#32) = .step ∧ (∀ s : State, exec .step s = .next
    { epilogue (cyclicPhase s.now (transformPhase s.now (monitorPhase s.now (mergePhase s.now (staleness s.now
        (ingest (prologue s))))))) with seq := .idle, resp := .ok none }) ∧
  ∀ s : State, epilogue s = { s with stepCnt := s.stepCnt + 1#32 }

/-- 40_host_interface.md R154, 46_output_scheduler.md R299: a step completes, counts itself, empties the FIFO, and never
writes what R154 leaves out. -/
def Obligations.StepWritesOnlyListedState : Prop :=
  ∀ s : State, ∃ t, exec .step s = .next t ∧
    t.stepCnt = s.stepCnt + 1#32 ∧ t.fifo = [] ∧ t.seq = .idle ∧ t.resp = .ok none ∧
    t.now = s.now ∧ t.wakeIe = s.wakeIe ∧ t.evtId = s.evtId ∧ t.evtValue = s.evtValue ∧ t.evtStatus = s.evtStatus ∧
    t.evtTs = s.evtTs ∧ t.status.evtOvf = s.status.evtOvf ∧ t.status.cmdErr = s.status.cmdErr ∧ t.mrgs = s.mrgs ∧
    t.params = s.params ∧ t.port = s.port ∧
    (∀ i, (sigAt t i).thresh = (sigAt s i).thresh) ∧
    (∀ k, (monAt t k).ctrl = (monAt s k).ctrl ∧ (monAt t k).watch = (monAt s k).watch ∧
      (monAt t k).fout = (monAt s k).fout ∧ (monAt t k).staleTo = (monAt s k).staleTo ∧
      (monAt t k).minV = (monAt s k).minV ∧ (monAt t k).maxV = (monAt s k).maxV ∧
      (monAt t k).level = (monAt s k).level ∧ (monAt t k).target = (monAt s k).target ∧
      (monAt t k).limpScale = (monAt s k).limpScale ∧ (monAt t k).limpMin = (monAt s k).limpMin ∧
      (monAt t k).limpMax = (monAt s k).limpMax ∧ (monAt t k).restoreMs = (monAt s k).restoreMs) ∧
    (∀ x, (xfAt t x).en = (xfAt s x).en ∧ (xfAt t x).inId = (xfAt s x).inId ∧ (xfAt t x).outId = (xfAt s x).outId) ∧
    (∀ x, (∀ k, monValid s (monAt s k) = true → limpRuns s (monAt s k) = true → (monAt s k).target.toNat ≠ x) →
      xfAt t x = xfAt s x) ∧
    (∀ c, (cycAt t c).src = (cycAt s c).src ∧ (cycAt t c).target = (cycAt s c).target ∧
      (cycAt t c).period = (cycAt s c).period)

/-- The model's choice (log 7): the sequencer's phases, run one machine step at a time from the start of Phase 0 (each merge
entry of Phase 3 by its selector), amount to STEP's one atomic transition, whatever waits at the port but a power-on
reset. -/
def Obligations.SequencerRefinesStep : Prop :=
  ∀ s t : State, s.port.head? ≠ some .powerOnReset → exec .step s = .next t →
    Sys2Proof.core.run (7 + s.mrgs.length) (startStep s) = .next { t with resp := s.resp }

/-- 40_host_interface.md R153: a transaction that waits while a step runs is held, and no response is given. -/
def Obligations.TransactionsHeldDuringStep : Prop :=
  ∀ (s : State) (p : Phase) (n : U64), s.seq = .running p n → s.port.head? ≠ some .powerOnReset →
    ∃ t, step s = .next t ∧ t.port = s.port ∧ t.resp = s.resp

/-- A STEP completes in one transition (40_host_interface.md R152) and, for whatever state it starts from and whatever waits
at the port but a power-on reset, phase by phase, which is the model's choice (log 7); and no step of the machine stops
(60_exceptions.md section 4). -/
def Obligations.NoStepStops : Prop :=
  (∀ s : State, ∃ t, exec .step s = .next t ∧ t.seq = .idle) ∧
  (∀ s : State, s.port.head? ≠ some .powerOnReset →
    ∃ t, Sys2Proof.core.run (7 + s.mrgs.length) (startStep s) = .next t ∧ t.seq = .idle) ∧
  (∀ s : State, ∃ t, step s = .next t)

/-! ### Phases 0, 1 and 2 -/

/-- 41_ingestion.md R170, R171, R172: Phase 0 empties both buffers, so that their words read 0, and clears every dirty
flag, and nothing else. -/
def Obligations.PrologueClearsBuffersAndFlags : Prop :=
  ∀ s : State, (prologue s).outs = [] ∧ (prologue s).wakes = [] ∧
    readReg (prologue s) .outCount = 0#32 ∧ readReg (prologue s) .wakeCount = 0#32 ∧
    (∀ i f, readReg (prologue s) (.out i f) = 0#32) ∧ (∀ i f, readReg (prologue s) (.wake i f) = 0#32) ∧
    (∀ i, sigAt (prologue s) i = { sigAt s i with updated := false }) ∧
    { prologue s with outs := s.outs, wakes := s.wakes, sigs := s.sigs } = s

/-- 41_ingestion.md R174, R175: an event out of range changes nothing; another writes its signal's value, status,
timestamp and assigns `updated`, and no other signal, no monitor and no FIFO entry. -/
def Obligations.IngestWritesOneSignal : Prop :=
  ∀ (s : State) (e : Event),
    (s.sigs.length ≤ e.id.toNat → ingestEvent s e = s) ∧
    (e.id.toNat < s.sigs.length →
      (∀ i, sigAt (ingestEvent s e) i =
        if i = e.id.toNat then
          { sigAt s i with value := e.value, status := e.status, ts := e.ts, updated := e.value != (sigAt s i).value }
        else sigAt s i) ∧
      (ingestEvent s e).mons = s.mons ∧ (ingestEvent s e).xfs = s.xfs ∧ (ingestEvent s e).fifo = s.fifo)

/-- 41_ingestion.md R178: after Phase 1 the last event of a signal has left its value, status and timestamp, and
`updated` compares its value with the one just before it. -/
def Obligations.LastEventOfSignalWins : Prop :=
  ∀ (s : State) (before : List Event) (e : Event) (after : List Event), s.fifo = before ++ e :: after →
    e.id.toNat < s.sigs.length → (∀ e' ∈ after, e'.id ≠ e.id) →
    (sigAt (ingest s) e.id.toNat).value = e.value ∧ (sigAt (ingest s) e.id.toNat).status = e.status ∧
    (sigAt (ingest s) e.id.toNat).ts = e.ts ∧
    (sigAt (ingest s) e.id.toNat).updated =
      (e.value != (sigAt (before.foldl ingestEvent s) e.id.toNat).value) ∧
    (ingest s).fifo = []

/-- 41_ingestion.md R173, R176, 44_fault_monitor.md R255, 60_exceptions.md R318: an event emits one fast-path record for
each valid monitor that watches its signal with CHK_RANGE and WAKE_EN and whose range its raw value leaves, in ascending
index; the buffer keeps the first MAX_WAKE; WAKE_PEND is set by any record, WAKE_OVF by a dropped one; no fault output, no
monitor and no transform changes. Phase 1 takes the queued events in push order and leaves the FIFO empty, so its records
are those of the first event, then those of the second, and so on. -/
def Obligations.FastPathRecordsInOrder : Prop :=
  ∀ s : State, s.wakes.length ≤ s.maxWake →
    let trips := fun (e : Event) (k : Monitor) =>
      k.ctrl.en = true ∧ k.watch.toNat < s.sigs.length ∧ k.fout.toNat < s.sigs.length ∧ k.fout ≠ k.watch ∧
      k.watch = e.id ∧ k.ctrl.chkRange = true ∧ k.ctrl.wakeEn = true ∧
      (e.value.toInt < k.minV.toInt ∨ k.maxV.toInt < e.value.toInt)
    let recs := fun (e : Event) => (List.range s.mons.length).filterMap fun i =>
      if trips e (monAt s i) then some (⟨BitVec.ofNat 8 i, e.value, (monAt s i).level, false⟩ : WakeRec) else none
    (∀ e : Event, e.id.toNat < s.sigs.length →
      (ingestEvent s e).wakes = (s.wakes ++ recs e).take s.maxWake ∧
      ((ingestEvent s e).status.wakePend = true ↔ s.status.wakePend = true ∨ recs e ≠ []) ∧
      ((ingestEvent s e).status.wakeOvf = true ↔
        s.status.wakeOvf = true ∨ s.maxWake < s.wakes.length + (recs e).length) ∧
      (ingestEvent s e).mons = s.mons ∧ (ingestEvent s e).xfs = s.xfs ∧
      (∀ i, i ≠ e.id.toNat → sigAt (ingestEvent s e) i = sigAt s i)) ∧
    ingest s = { s.fifo.foldl ingestEvent s with fifo := [] } ∧
    (let all := s.fifo.flatMap recs
     (ingest s).wakes = (s.wakes ++ all).take s.maxWake ∧
     ((ingest s).status.wakePend = true ↔ s.status.wakePend = true ∨ all ≠ []) ∧
     ((ingest s).status.wakeOvf = true ↔ s.status.wakeOvf = true ∨ s.maxWake < s.wakes.length + all.length) ∧
     (ingest s).status.evtOvf = s.status.evtOvf ∧ (ingest s).status.cmdErr = s.status.cmdErr ∧
     (ingest s).mons = s.mons ∧ (ingest s).xfs = s.xfs)

/-- 42_staleness.md R190, R191: the scan, signal by signal, and its idempotence: a second scan at the same time changes
nothing. -/
def Obligations.StalenessScan : Prop :=
  ∀ (s : State) (n : U64),
    (∀ i, sigAt (staleness n s) i =
      if 0 < (sigAt s i).thresh.toNat ∧ (sigAt s i).thresh.toNat < n.toNat - (sigAt s i).ts.toNat ∧
          (sigAt s i).status ≠ .timeout then
        { sigAt s i with status := .timeout, updated := true }
      else sigAt s i) ∧
    { staleness n s with sigs := s.sigs } = s ∧
    staleness n (staleness n s) = staleness n s

/-! ### Phase 3: the METHOD rows -/

/-- 43_merge_voter.md R204, R210: METHOD_MIN (METHOD 0) at an entry that is not skipped writes the least valid input. -/
def Obligations.MethodMinWritesMinimum : Prop :=
  ∀ (s : State) (m : Nat) (n : U64) (e : MergeEntry) (nin : BitVec 4), s.seq = .running (.merge m) n →
    s.mrgs[m]? = some e → e.outId.toNat < s.sigs.length → e.outId ∉ usedSlots nin e → validInputs s nin e ≠ [] →
    decodeSelector (mkSelector true 0#3 nin) = .methodMin true (legalNin nin) ∧
    ∃ r, r ∈ validInputs s nin e ∧ (∀ x ∈ validInputs s nin e, r ≤ x) ∧
      exec (.methodMin true nin) s = .next { s with sigs := s.sigs.set e.outId.toNat (
        { sigAt s e.outId.toNat with
          value := BitVec.ofInt 32 r, status := tolOverride .ok (validInputs s nin e) e.tol.toNat, ts := n, updated := true }) }

/-- 43_merge_voter.md R205, R210: METHOD_MAX (METHOD 1) at an entry that is not skipped writes the greatest valid input. -/
def Obligations.MethodMaxWritesMaximum : Prop :=
  ∀ (s : State) (m : Nat) (n : U64) (e : MergeEntry) (nin : BitVec 4), s.seq = .running (.merge m) n →
    s.mrgs[m]? = some e → e.outId.toNat < s.sigs.length → e.outId ∉ usedSlots nin e → validInputs s nin e ≠ [] →
    decodeSelector (mkSelector true 1#3 nin) = .methodMax true (legalNin nin) ∧
    ∃ r, r ∈ validInputs s nin e ∧ (∀ x ∈ validInputs s nin e, x ≤ r) ∧
      exec (.methodMax true nin) s = .next { s with sigs := s.sigs.set e.outId.toNat (
        { sigAt s e.outId.toNat with
          value := BitVec.ofInt 32 r, status := tolOverride .ok (validInputs s nin e) e.tol.toNat, ts := n, updated := true }) }

/-- 43_merge_voter.md R206, R210: METHOD_AVERAGE (METHOD 2) writes the exact mean truncated toward zero: the quotient `r` with a
remainder smaller than the count and of the sum's sign. -/
def Obligations.MethodAverageTruncatesTowardZero : Prop :=
  ∀ (s : State) (m : Nat) (n : U64) (e : MergeEntry) (nin : BitVec 4), s.seq = .running (.merge m) n →
    s.mrgs[m]? = some e → e.outId.toNat < s.sigs.length → e.outId ∉ usedSlots nin e → validInputs s nin e ≠ [] →
    let v := validInputs s nin e
    decodeSelector (mkSelector true 2#3 nin) = .methodAverage true (legalNin nin) ∧
    ∃ r, (v.sum - r * v.length).natAbs < v.length ∧ 0 ≤ (v.sum - r * v.length) * v.sum ∧
      exec (.methodAverage true nin) s = .next { s with sigs := s.sigs.set e.outId.toNat (
        { sigAt s e.outId.toNat with
          value := BitVec.ofInt 32 r, status := tolOverride .ok v e.tol.toNat, ts := n, updated := true }) }

/-- 43_merge_voter.md R207, R210: METHOD_MEDIAN (METHOD 3) writes the middle of the sorted inputs, or the floor of the mean of the two
central ones. -/
def Obligations.MethodMedianWritesMiddle : Prop :=
  ∀ (s : State) (m : Nat) (n : U64) (e : MergeEntry) (nin : BitVec 4), s.seq = .running (.merge m) n →
    s.mrgs[m]? = some e → e.outId.toNat < s.sigs.length → e.outId ∉ usedSlots nin e → validInputs s nin e ≠ [] →
    let v := validInputs s nin e
    decodeSelector (mkSelector true 3#3 nin) = .methodMedian true (legalNin nin) ∧
    ∃ (w : List Int) (r : Int), w.Perm v ∧ w.Pairwise (· ≤ ·) ∧
      (v.length % 2 = 1 → w[(v.length - 1) / 2]? = some r) ∧
      (v.length % 2 = 0 → ∃ a b, w[v.length / 2 - 1]? = some a ∧ w[v.length / 2]? = some b ∧ 2 * r ≤ a + b ∧ a + b ≤ 2 * r + 1) ∧
      exec (.methodMedian true nin) s = .next { s with sigs := s.sigs.set e.outId.toNat (
        { sigAt s e.outId.toNat with
          value := BitVec.ofInt 32 r, status := tolOverride .ok v e.tol.toNat, ts := n, updated := true }) }

/-- 43_merge_voter.md R208, R210: METHOD_MAJORITY (METHOD 4) publishes the median (the `r` of METHOD_MEDIAN), with status OK before
the override exactly when at least `ceil(n/2)` inputs lie within TOL of it. -/
def Obligations.MethodMajorityNeedsQuorum : Prop :=
  ∀ (s : State) (m : Nat) (n : U64) (e : MergeEntry) (nin : BitVec 4), s.seq = .running (.merge m) n →
    s.mrgs[m]? = some e → e.outId.toNat < s.sigs.length → e.outId ∉ usedSlots nin e → validInputs s nin e ≠ [] →
    let v := validInputs s nin e
    let near := v.filter fun x => decide (medianOf v - x ≤ (e.tol.toNat : Int) ∧ x - medianOf v ≤ (e.tol.toNat : Int))
    let st : Status := if v.length ≤ 2 * near.length then .ok else .inconsistent
    let t : State := { s with sigs := s.sigs.set e.outId.toNat (
      { sigAt s e.outId.toNat with
        value := BitVec.ofInt 32 (medianOf v), status := tolOverride st v e.tol.toNat, ts := n, updated := true }) }
    decodeSelector (mkSelector true 4#3 nin) = .methodMajority true (legalNin nin) ∧
    exec (.methodMajority true nin) s = .next t ∧
    ∃ st', exec (.methodMedian true nin) s = .next { t with sigs := t.sigs.set e.outId.toNat (
      { sigAt t e.outId.toNat with status := st' }) }

/-- 43_merge_voter.md R203: with no valid input, every method writes the status ERROR and nothing else. -/
def Obligations.MergeWithoutInputsIsError : Prop :=
  ∀ (s : State) (m : Nat) (n : U64) (e : MergeEntry) (nin : BitVec 4), s.seq = .running (.merge m) n →
    s.mrgs[m]? = some e → e.outId.toNat < s.sigs.length → e.outId ∉ usedSlots nin e → validInputs s nin e = [] →
    let t : State := { s with sigs := s.sigs.set e.outId.toNat ({ sigAt s e.outId.toNat with status := .error }) }
    exec (.methodMin true nin) s = .next t ∧ exec (.methodMax true nin) s = .next t ∧
    exec (.methodAverage true nin) s = .next t ∧ exec (.methodMedian true nin) s = .next t ∧
    exec (.methodMajority true nin) s = .next t

/-- 43_merge_voter.md R201: a merge with EN 0, a reserved method, its output out of range, or its output among its slots
in use is skipped: nothing changes, in a single pass of the entry and for its METHOD row. -/
def Obligations.SkippedMergeWritesNothing : Prop :=
  (∀ (s : State) (m : Nat) (n : U64) (e : MergeEntry), s.mrgs[m]? = some e →
    e.en = false ∨ 5 ≤ e.method.toNat ∨ s.sigs.length ≤ e.outId.toNat ∨ e.outId ∈ usedSlots e.nin e →
    mergeEntry n m s = s) ∧
  (∀ (s : State) (m : Nat) (n : U64) (e : MergeEntry) (en : Bool) (nin : BitVec 4), s.seq = .running (.merge m) n →
    s.mrgs[m]? = some e → en = false ∨ s.sigs.length ≤ e.outId.toNat ∨ e.outId ∈ usedSlots nin e →
    exec (.methodMin en nin) s = .next s ∧ exec (.methodMax en nin) s = .next s ∧
    exec (.methodAverage en nin) s = .next s ∧ exec (.methodMedian en nin) s = .next s ∧
    exec (.methodMajority en nin) s = .next s) ∧
  (∀ (s : State) (m : Nat) (n : U64) (e : MergeEntry) (en : Bool) (nin : BitVec 4), s.seq = .running (.merge m) n →
    s.mrgs[m]? = some e →
    exec (.methodReserved5 en nin) s = .next s ∧ exec (.methodReserved6 en nin) s = .next s ∧
    exec (.methodReserved7 en nin) s = .next s)

/-- The model's choice (log 8), where the spec says nothing: outside Phase 3, and at an index past the merge table, each of
the eight METHOD rows changes nothing. -/
def Obligations.SelectorActsInPhase3Only : Prop :=
  ∀ (s : State) (en : Bool) (nin : BitVec 4), (∀ m n, s.seq = .running (.merge m) n → s.mrgs[m]? = none) →
    exec (.methodMin en nin) s = .next s ∧ exec (.methodMax en nin) s = .next s ∧
    exec (.methodAverage en nin) s = .next s ∧ exec (.methodMedian en nin) s = .next s ∧
    exec (.methodMajority en nin) s = .next s ∧
    exec (.methodReserved5 en nin) s = .next s ∧ exec (.methodReserved6 en nin) s = .next s ∧
    exec (.methodReserved7 en nin) s = .next s

/-- 43_merge_voter.md R209: the tolerance override, with the spread as the greatest difference of two inputs. -/
def Obligations.ToleranceOverrideBySpread : Prop :=
  ∀ (st : Status) (v : List Int) (tol : Nat),
    (1 < v.length → 0 < tol → (∃ x ∈ v, ∃ y ∈ v, (tol : Int) < x - y) → tolOverride st v tol = .inconsistent) ∧
    (¬ (1 < v.length ∧ 0 < tol ∧ ∃ x ∈ v, ∃ y ∈ v, (tol : Int) < x - y) → tolOverride st v tol = st)

/-- 43_merge_voter.md R212: every method's result lies between the extremes of its inputs, so it fits in an `i32` and the
output write stores it unchanged. -/
def Obligations.VoteResultFitsInRange : Prop :=
  ∀ vote ∈ [voteMin, voteMax, voteAverage, voteMedian, voteMajority], ∀ (v : List Int) (tol : Nat), v ≠ [] →
    (∃ x ∈ v, x ≤ (vote v tol).1) ∧ (∃ x ∈ v, (vote v tol).1 ≤ x) ∧
    ((∀ x ∈ v, -2 ^ 31 ≤ x ∧ x < 2 ^ 31) → (BitVec.ofInt 32 (vote v tol).1).toInt = (vote v tol).1)

/-- 43_merge_voter.md R214: methods and override depend on the multiset of the inputs only. -/
def Obligations.VoteIgnoresSlotOrder : Prop :=
  ∀ (v w : List Int) (tol : Nat) (st : Status), v.Perm w →
    (∀ vote ∈ [voteMin, voteMax, voteAverage, voteMedian, voteMajority], vote v tol = vote w tol) ∧
    tolOverride st v tol = tolOverride st w tol

/-- 95_test_vectors.md section 2.3: with TOL > 0 a MAJORITY vote is OK exactly when the spread is at most TOL. -/
def Obligations.MajorityIsOkWithinSpread : Prop :=
  ∀ (v : List Int) (tol : Nat), v ≠ [] → 0 < tol →
    (tolOverride (voteMajority v tol).2 v tol = .ok ↔ ∀ x ∈ v, ∀ y ∈ v, x - y ≤ (tol : Int))

/-- 43_merge_voter.md R200, R201: Phase 3 is one pass for every entry in ascending index, each pass what the METHOD row of
the entry's MRG_CTRL word does at it; it changes no signal but the outputs of merges that are not skipped, never a
threshold, and nothing else of the state. -/
def Obligations.MergePhaseWritesOutputsOnly : Prop :=
  ∀ (s : State) (n : U64),
    mergePhase n s = (List.range s.mrgs.length).foldl (fun t m => mergeEntry n m t) s ∧
    (∀ m e, s.seq = .running (.merge m) n → s.mrgs[m]? = some e →
      exec (decodeSelector (mrgCtrlWord e)) s = .next (mergeEntry n m s)) ∧
    (∀ i, (∀ e ∈ s.mrgs, mergeRuns s e = true → e.outId.toNat ≠ i) → sigAt (mergePhase n s) i = sigAt s i) ∧
    (∀ i, (sigAt (mergePhase n s) i).thresh = (sigAt s i).thresh) ∧
    { mergePhase n s with sigs := s.sigs } = s

/-! ### Phase 4 -/

/-- 44_fault_monitor.md R240, R241: Phase 4 is one iteration for every monitor in ascending index. Which monitors are valid;
one that is not takes part in neither the fast path nor Phase 4; one that is has its pass: the fault found, the fault
output, the cycle-level wake, the fault memory, the limp-home machine, in this order. -/
def Obligations.OnlyValidMonitorsAct : Prop :=
  (∀ (s : State) (n : U64), monitorPhase n s = (List.range s.mons.length).foldl (fun t i => monitorEntry n i t) s) ∧
  ∀ (s : State) (i : Nat) (e : Event) (n : U64),
    let valid := (monAt s i).ctrl.en = true ∧ (monAt s i).watch.toNat < s.sigs.length ∧
      (monAt s i).fout.toNat < s.sigs.length ∧ (monAt s i).fout ≠ (monAt s i).watch
    (¬ valid → monitorEntry n i s = s ∧ fastCheck e i s = s) ∧
    (valid → monValid s (monAt s i) = true ∧
      let f := faultOf n s i
      monitorEntry n i s =
        limpFsm n f i (faultMemory i f (cycleWake i (monAt s i) f (faultOutput n (monAt s i) f s))))

/-- 44_fault_monitor.md R242 to R246, R256: the pass of a valid monitor writes its fault output from the three triggers,
and no other signal: the watched signal stays. -/
def Obligations.FaultOutputFromTriggers : Prop :=
  ∀ (s : State) (i : Nat) (n : U64), monValid s (monAt s i) = true →
    let k := monAt s i
    let w := sigAt s k.watch.toNat
    let f := (k.ctrl.chkStale && decide (k.staleTo.toNat < n.toNat - w.ts.toNat)) ||
      (k.ctrl.chkRange && (decide (w.value.toInt < k.minV.toInt) || decide (k.maxV.toInt < w.value.toInt))) ||
      (k.ctrl.chkStatus && (w.status == .error || w.status == .inconsistent || w.status == .outOfRange))
    let lvl := if f then k.level else 0#32
    faultOf n s i = f ∧ ∀ j, sigAt (monitorEntry n i s) j =
      if j = k.fout.toNat then
        { sigAt s j with value := lvl, status := .ok, ts := n, updated := (sigAt s j).value != lvl || (sigAt s j).updated }
      else sigAt s j

/-- 44_fault_monitor.md R247, R248, R255: a pass emits one cycle-level record exactly on a rising fault with CYC_WAKE_EN and
WAKE_EN, and remembers the fault. -/
def Obligations.CycleWakeOnRisingFault : Prop :=
  ∀ (s : State) (i : Nat) (n : U64), monValid s (monAt s i) = true →
    let k := monAt s i
    let f := faultOf n s i
    let t := monitorEntry n i s
    (monAt t i).faultActive = f ∧
    (if k.ctrl.cycWakeEn = true ∧ k.ctrl.wakeEn = true ∧ f = true ∧ k.faultActive = false then
      t.status.wakePend = true ∧
      (if s.wakes.length < s.maxWake then
        t.wakes = s.wakes ++ [⟨BitVec.ofNat 8 i, (sigAt s k.watch.toNat).value, k.level, true⟩] ∧
        t.status.wakeOvf = s.status.wakeOvf
      else t.wakes = s.wakes ∧ t.status.wakeOvf = true)
    else t.wakes = s.wakes ∧ t.status = s.status) ∧
    t.status.evtOvf = s.status.evtOvf ∧ t.status.cmdErr = s.status.cmdErr

/-- 44_fault_monitor.md R249 to R254: the transition table of the limp-home machine, in the pass of a valid monitor: what
it does to the monitor's runtime fields and to the transforms, line by line, and the frozen machine. The pass leaves every
other monitor, and everything but signals, monitors, transforms, wake records and STATUS, as it was (R256). -/
def Obligations.LimpHomeTransitions : Prop :=
  ∀ (s : State) (i : Nat) (n : U64), monValid s (monAt s i) = true →
    let k := monAt s i
    let f := faultOf n s i
    let x := xfAt s k.target.toNat
    let nms : U64 := BitVec.ofNat 64 (n.toNat / 1000)
    let t := monitorEntry n i s
    (∀ j, j ≠ i → monAt t j = monAt s j) ∧
    { t with sigs := s.sigs, mons := s.mons, xfs := s.xfs, wakes := s.wakes, status := s.status } = s ∧
    if k.ctrl.limpEn = true ∧ k.target.toNat < s.xfs.length then
      if k.limpActive = false then
        if f = true then
          monAt t i = { k with faultActive := true, limpActive := true, fctMs := nms
                               svScale := x.scale, svMin := x.clampMin, svMax := x.clampMax
                               svHasMin := x.hasMin, svHasMax := x.hasMax } ∧
          t.xfs = s.xfs.set k.target.toNat
            { x with scale := if k.ctrl.limpScaleEn then k.limpScale else x.scale
                     clampMin := if k.ctrl.limpMinEn then k.limpMin else x.clampMin
                     hasMin := k.ctrl.limpMinEn || x.hasMin
                     clampMax := if k.ctrl.limpMaxEn then k.limpMax else x.clampMax
                     hasMax := k.ctrl.limpMaxEn || x.hasMax }
        else monAt t i = { k with faultActive := false, fctMs := nms } ∧ t.xfs = s.xfs
      else if f = true then monAt t i = { k with faultActive := true, fctMs := nms } ∧ t.xfs = s.xfs
      else if k.restoreMs.toNat ≤ n.toNat / 1000 - k.fctMs.toNat then
        monAt t i = { k with faultActive := false, limpActive := false, fctMs := nms } ∧
        t.xfs = s.xfs.set k.target.toNat
          { x with scale := k.svScale, clampMin := k.svMin, clampMax := k.svMax, hasMin := k.svHasMin, hasMax := k.svHasMax }
      else monAt t i = { k with faultActive := false } ∧ t.xfs = s.xfs
    else monAt t i = { k with faultActive := f } ∧ t.xfs = s.xfs

/-- 44_fault_monitor.md R258: for a running machine, a pass with a fault at time `n0` leaves it in LIMP and moves `tf` to
`n0`; it holds LIMP and the limp parameters over any passes with no fault before the delay elapses, and returns to NORMAL
at the first pass with no fault at which it has, with the saved transform parameters: those before the entry, where the
pass at `n0` was the entry. -/
def Obligations.HysteresisHoldsThenRestores : Prop :=
  ∀ (s : State) (i : Nat) (n0 : U64) (holds : List U64) (n1 : U64), i < s.mons.length →
    limpRuns s (monAt s i) = true →
    (∀ n ∈ holds, n.toNat / 1000 - n0.toNat / 1000 < (monAt s i).restoreMs.toNat) →
    (monAt s i).restoreMs.toNat ≤ n1.toNat / 1000 - n0.toNat / 1000 →
    let limp := limpFsm n0 true i s
    let k := monAt limp i
    let x := xfAt limp k.target.toNat
    let back := limpFsm n1 false i limp
    k.limpActive = true ∧ k.fctMs.toNat = n0.toNat / 1000 ∧
    holds.foldl (fun t n => limpFsm n false i t) limp = limp ∧
    (monAt back i).limpActive = false ∧
    back.xfs = limp.xfs.set k.target.toNat
      { x with scale := k.svScale, clampMin := k.svMin, clampMax := k.svMax, hasMin := k.svHasMin, hasMax := k.svHasMax } ∧
    ((monAt s i).limpActive = false → back.xfs = s.xfs)

/-! ### Phases 5 and 6 -/

/-- 45_transform_slot.md R281, R282: Phase 5 writes only value, status, ts and `updated` of the outputs of transforms that
may run; in a build with the default `XFORM_ID` it changes nothing; and in a build with a supplied `XFORM`, the `k`-th
(log 6), each of those signals gets what that function gives it from the LQE's own state and the step time. -/
def Obligations.TransformContract : Prop :=
  ∀ (s : State) (n : U64),
    (∀ i, (∀ x ∈ s.xfs, x.en = true → x.inId.toNat < s.sigs.length → x.outId.toNat < s.sigs.length →
        x.outId ≠ x.inId → x.outId.toNat ≠ i) → sigAt (transformPhase n s) i = sigAt s i) ∧
    (∀ i, (sigAt (transformPhase n s) i).thresh = (sigAt s i).thresh) ∧
    { transformPhase n s with sigs := s.sigs } = s ∧
    (s.xform = .identity → transformPhase n s = s) ∧
    (∀ k, s.xform = .supplied k → ∀ x ∈ s.xfs, x.en = true → x.inId.toNat < s.sigs.length →
        x.outId.toNat < s.sigs.length → x.outId ≠ x.inId →
      let o := Config.xform k { s with seq := .idle, port := [], resp := .quiet } n x.outId.toNat
      sigAt (transformPhase n s) x.outId.toNat =
        { sigAt s x.outId.toNat with value := o.value, status := o.status, ts := o.ts, updated := o.updated })

/-- 46_output_scheduler.md R290 to R295: one entry of Phase 6: disabled or not due, nothing changes; due, the deadline
moves by one period modulo 2^64 and an output event is appended where there is room. -/
def Obligations.CyclicEntryFires : Prop :=
  ∀ (s : State) (n : U64) (c : Nat),
    let e := cycAt s c
    if e.period = 0#32 ∨ s.sigs.length ≤ e.src.toNat ∨ n.toNat < e.dl.toNat then cyclicEntry n c s = s
    else cyclicEntry n c s = { s with
      outs := if s.outs.length < s.maxOutputEvents then
          s.outs ++ [{ target := e.target, value := (sigAt s e.src.toNat).value, ts := n }] else s.outs
      cycs := s.cycs.set c { e with dl := BitVec.ofNat 64 (e.dl.toNat + e.period.toNat) } }

/-- 46_output_scheduler.md R290, R292, R294, R295, R296: Phase 6 moves the deadline of each enabled entry that is due by one
period modulo 2^64, also where the buffer is full, and leaves every other entry as it was; it appends one event for each
such entry, in ascending index, and keeps as many as the buffer has room for: the lower indices win; nothing else
changes. -/
def Obligations.LowerEntriesWinOutputSlots : Prop :=
  ∀ (s : State) (n : U64),
    let fires := fun e : CyclicEntry => e.period ≠ 0#32 ∧ e.src.toNat < s.sigs.length ∧ e.dl.toNat ≤ n.toNat
    (cyclicPhase n s).cycs = s.cycs.map (fun e =>
      if fires e then { e with dl := BitVec.ofNat 64 (e.dl.toNat + e.period.toNat) } else e) ∧
    { cyclicPhase n s with outs := s.outs, cycs := s.cycs } = s ∧
    (s.outs.length ≤ s.maxOutputEvents →
      (cyclicPhase n s).outs = (s.outs ++ (List.range s.cycs.length).filterMap fun c =>
        if fires (cycAt s c) then
          some (⟨(cycAt s c).target, (sigAt s (cycAt s c).src.toNat).value, n⟩ : OutEvent)
        else none).take s.maxOutputEvents)

/-- 46_output_scheduler.md R291, R293, R294, R297, R298: over any step times a disabled entry stays as it is; the deadline
of an enabled one moves by one period at each step whose time has reached it, and at no other, so it is the first one plus
a whole number of periods (modulo 2^64), at most one a step; its configuration stays. -/
def Obligations.DeadlinesNeverDrift : Prop :=
  ∀ (s : State) (times : List U64) (c : Nat),
    let e := cycAt s c
    let t := times.foldl (fun u n => cyclicPhase n u) s
    if e.period = 0#32 ∨ s.sigs.length ≤ e.src.toNat then cycAt t c = e
    else
      let d := times.foldl (fun (d : Nat) n => if d % 2 ^ 64 ≤ n.toNat then d + e.period.toNat else d) e.dl.toNat
      cycAt t c = { e with dl := BitVec.ofNat 64 d } ∧ ∃ j, j ≤ times.length ∧ d = e.dl.toNat + j * e.period.toNat

/-! ### The whole machine -/

/-- Every step keeps the invariant: legal capacities, FIFO and buffers within them, every NIN 0..8. -/
def Obligations.EveryStepKeepsInvariant : Prop :=
  ∀ s t : State, s.Inv → step s = .next t → t.Inv

/-- The invariant holds after reset, of every legal build and of the reference build. -/
def Obligations.ResetMeetsInvariant : Prop :=
  State.reset.Inv ∧ ∀ p : Params, p.legal → (State.resetOf p).Inv

/-- 60_exceptions.md R312, R313, R316, 10_state.md R28: which operation can set each sticky flag, which can clear one, and
what the interrupt output is: 1 exactly while WAKE_IE and WAKE_PEND are, at once after a write of IRQ_EN too. -/
def Obligations.StickyFlagsSetAndCleared : Prop :=
  (∀ (i : Instr) (s t : State), i.wellFormed = true → exec i s = .next t →
    (s.status.cmdErr = false → t.status.cmdErr = true → ∃ d, i = .cmdReserved d) ∧
    (s.status.evtOvf = false → t.status.evtOvf = true → i = .evtPush ∧ s.maxEvents ≤ s.fifo.length) ∧
    (s.status.wakePend = false → t.status.wakePend = true → i = .step) ∧
    (s.status.wakeOvf = false → t.status.wakeOvf = true → i = .step) ∧
    (s.status.cmdErr = true → t.status.cmdErr = false → i = .init ∨ ∃ d : Word, i = .statusW1c d ∧ d.getLsbD 3 = true) ∧
    (s.status.evtOvf = true → t.status.evtOvf = false → i = .init ∨ ∃ d : Word, i = .statusW1c d ∧ d.getLsbD 0 = true) ∧
    (s.status.wakePend = true → t.status.wakePend = false → i = .init ∨ ∃ d : Word, i = .statusW1c d ∧ d.getLsbD 1 = true) ∧
    (s.status.wakeOvf = true → t.status.wakeOvf = false → i = .init ∨ ∃ d : Word, i = .statusW1c d ∧ d.getLsbD 2 = true)) ∧
  (∀ s : State, irqWake s = true ↔ s.wakeIe = true ∧ s.status.wakePend = true) ∧
  (∀ (s t : State) (d : Word), exec (.busWrite 0x018#18 d) s = .next t →
    irqWake t = (d.getLsbD 0 && s.status.wakePend) ∧ t.status = s.status) ∧
  (∀ s t : State, exec .init s = .next t → irqWake t = false) ∧
  (∀ (s t : State) (d : Word), d.getLsbD 1 = true → exec (.statusW1c d) s = .next t → irqWake t = false)

/-- 10_state.md R30, 60_exceptions.md R324: only the host changes NOW, by a bus write of NOW_LO or NOW_HI or by INIT. -/
def Obligations.OnlyHostWritesNow : Prop :=
  ∀ (i : Instr) (s t : State), exec i s = .next t → t.now ≠ s.now →
    i = .init ∨ ∃ d : Word, i = .busWrite 0x020#18 d ∨ i = .busWrite 0x024#18 d

/-- 70_reset_and_hazards.md R353: under WF_SINGLE_WRITER, Phase 1 leaves every signal that a merge, a monitor or a
transform writes in this step as it was. -/
def Obligations.SingleWriterSparesOutputs : Prop :=
  ∀ (s : State) (i : SigId), singleWriter s = true → i.toNat < s.sigs.length → writersOf s i ≠ [] →
    sigAt (ingest s) i.toNat = sigAt s i.toNat

/-- 43_merge_voter.md R202, 10_state.md R43: the slots in use are `IN[0]` to `IN[NIN-1]`, and the valid inputs are the
values, as signed numbers, of those slots' signals that are in range and OK, in slot order and with repeats. -/
def Obligations.ValidInputsAreOkSlotsInUse : Prop :=
  ∀ (s : State) (nin : BitVec 4) (e : MergeEntry),
    let slots := [e.slots.in0, e.slots.in1, e.slots.in2, e.slots.in3, e.slots.in4, e.slots.in5, e.slots.in6, e.slots.in7]
    (∀ j : Nat, (usedSlots nin e)[j]? = if j < nin.toNat then slots[j]? else none) ∧
    validInputs s nin e = ((slots.take nin.toNat).filter fun i =>
      decide (i.toNat < s.sigs.length ∧ (sigAt s i.toNat).status = .ok)).map fun i => (sigAt s i.toNat).value.toInt
end

