-- ==== Sys2Proof/Laws/State.lean ====
section
/-! SUPPORT. One lemma per field per named update of State: what each update sets, and what it leaves. -/

namespace Sys2Proof.Machine

@[simp] theorem setSig_status (s : State) (i : Nat) (g : Signal) : (setSig s i g).status = s.status := rfl
@[simp] theorem setSig_wakeIe (s : State) (i : Nat) (g : Signal) : (setSig s i g).wakeIe = s.wakeIe := rfl
@[simp] theorem setSig_now (s : State) (i : Nat) (g : Signal) : (setSig s i g).now = s.now := rfl
@[simp] theorem setSig_stepCnt (s : State) (i : Nat) (g : Signal) : (setSig s i g).stepCnt = s.stepCnt := rfl
@[simp] theorem setSig_evtId (s : State) (i : Nat) (g : Signal) : (setSig s i g).evtId = s.evtId := rfl
@[simp] theorem setSig_evtValue (s : State) (i : Nat) (g : Signal) : (setSig s i g).evtValue = s.evtValue := rfl
@[simp] theorem setSig_evtStatus (s : State) (i : Nat) (g : Signal) : (setSig s i g).evtStatus = s.evtStatus := rfl
@[simp] theorem setSig_evtTs (s : State) (i : Nat) (g : Signal) : (setSig s i g).evtTs = s.evtTs := rfl
@[simp] theorem setSig_fifo (s : State) (i : Nat) (g : Signal) : (setSig s i g).fifo = s.fifo := rfl
@[simp] theorem setSig_outs (s : State) (i : Nat) (g : Signal) : (setSig s i g).outs = s.outs := rfl
@[simp] theorem setSig_wakes (s : State) (i : Nat) (g : Signal) : (setSig s i g).wakes = s.wakes := rfl
@[simp] theorem setSig_sigs (s : State) (i : Nat) (g : Signal) : (setSig s i g).sigs = s.sigs.set i g := rfl
@[simp] theorem setSig_mrgs (s : State) (i : Nat) (g : Signal) : (setSig s i g).mrgs = s.mrgs := rfl
@[simp] theorem setSig_mons (s : State) (i : Nat) (g : Signal) : (setSig s i g).mons = s.mons := rfl
@[simp] theorem setSig_cycs (s : State) (i : Nat) (g : Signal) : (setSig s i g).cycs = s.cycs := rfl
@[simp] theorem setSig_xfs (s : State) (i : Nat) (g : Signal) : (setSig s i g).xfs = s.xfs := rfl
@[simp] theorem setSig_seq (s : State) (i : Nat) (g : Signal) : (setSig s i g).seq = s.seq := rfl
@[simp] theorem setSig_maxEvents (s : State) (i : Nat) (g : Signal) : (setSig s i g).maxEvents = s.maxEvents := rfl
@[simp] theorem setSig_maxOutputEvents (s : State) (i : Nat) (g : Signal) : (setSig s i g).maxOutputEvents = s.maxOutputEvents := rfl
@[simp] theorem setSig_maxWake (s : State) (i : Nat) (g : Signal) : (setSig s i g).maxWake = s.maxWake := rfl
@[simp] theorem setSig_xform (s : State) (i : Nat) (g : Signal) : (setSig s i g).xform = s.xform := rfl
@[simp] theorem setSig_port (s : State) (i : Nat) (g : Signal) : (setSig s i g).port = s.port := rfl
@[simp] theorem setSig_resp (s : State) (i : Nat) (g : Signal) : (setSig s i g).resp = s.resp := rfl

@[simp] theorem setMrg_status (s : State) (i : Nat) (e : MergeEntry) : (setMrg s i e).status = s.status := rfl
@[simp] theorem setMrg_wakeIe (s : State) (i : Nat) (e : MergeEntry) : (setMrg s i e).wakeIe = s.wakeIe := rfl
@[simp] theorem setMrg_now (s : State) (i : Nat) (e : MergeEntry) : (setMrg s i e).now = s.now := rfl
@[simp] theorem setMrg_stepCnt (s : State) (i : Nat) (e : MergeEntry) : (setMrg s i e).stepCnt = s.stepCnt := rfl
@[simp] theorem setMrg_evtId (s : State) (i : Nat) (e : MergeEntry) : (setMrg s i e).evtId = s.evtId := rfl
@[simp] theorem setMrg_evtValue (s : State) (i : Nat) (e : MergeEntry) : (setMrg s i e).evtValue = s.evtValue := rfl
@[simp] theorem setMrg_evtStatus (s : State) (i : Nat) (e : MergeEntry) : (setMrg s i e).evtStatus = s.evtStatus := rfl
@[simp] theorem setMrg_evtTs (s : State) (i : Nat) (e : MergeEntry) : (setMrg s i e).evtTs = s.evtTs := rfl
@[simp] theorem setMrg_fifo (s : State) (i : Nat) (e : MergeEntry) : (setMrg s i e).fifo = s.fifo := rfl
@[simp] theorem setMrg_outs (s : State) (i : Nat) (e : MergeEntry) : (setMrg s i e).outs = s.outs := rfl
@[simp] theorem setMrg_wakes (s : State) (i : Nat) (e : MergeEntry) : (setMrg s i e).wakes = s.wakes := rfl
@[simp] theorem setMrg_sigs (s : State) (i : Nat) (e : MergeEntry) : (setMrg s i e).sigs = s.sigs := rfl
@[simp] theorem setMrg_mrgs (s : State) (i : Nat) (e : MergeEntry) : (setMrg s i e).mrgs = s.mrgs.set i e := rfl
@[simp] theorem setMrg_mons (s : State) (i : Nat) (e : MergeEntry) : (setMrg s i e).mons = s.mons := rfl
@[simp] theorem setMrg_cycs (s : State) (i : Nat) (e : MergeEntry) : (setMrg s i e).cycs = s.cycs := rfl
@[simp] theorem setMrg_xfs (s : State) (i : Nat) (e : MergeEntry) : (setMrg s i e).xfs = s.xfs := rfl
@[simp] theorem setMrg_seq (s : State) (i : Nat) (e : MergeEntry) : (setMrg s i e).seq = s.seq := rfl
@[simp] theorem setMrg_maxEvents (s : State) (i : Nat) (e : MergeEntry) : (setMrg s i e).maxEvents = s.maxEvents := rfl
@[simp] theorem setMrg_maxOutputEvents (s : State) (i : Nat) (e : MergeEntry) : (setMrg s i e).maxOutputEvents = s.maxOutputEvents := rfl
@[simp] theorem setMrg_maxWake (s : State) (i : Nat) (e : MergeEntry) : (setMrg s i e).maxWake = s.maxWake := rfl
@[simp] theorem setMrg_xform (s : State) (i : Nat) (e : MergeEntry) : (setMrg s i e).xform = s.xform := rfl
@[simp] theorem setMrg_port (s : State) (i : Nat) (e : MergeEntry) : (setMrg s i e).port = s.port := rfl
@[simp] theorem setMrg_resp (s : State) (i : Nat) (e : MergeEntry) : (setMrg s i e).resp = s.resp := rfl

@[simp] theorem setMon_status (s : State) (i : Nat) (e : Monitor) : (setMon s i e).status = s.status := rfl
@[simp] theorem setMon_wakeIe (s : State) (i : Nat) (e : Monitor) : (setMon s i e).wakeIe = s.wakeIe := rfl
@[simp] theorem setMon_now (s : State) (i : Nat) (e : Monitor) : (setMon s i e).now = s.now := rfl
@[simp] theorem setMon_stepCnt (s : State) (i : Nat) (e : Monitor) : (setMon s i e).stepCnt = s.stepCnt := rfl
@[simp] theorem setMon_evtId (s : State) (i : Nat) (e : Monitor) : (setMon s i e).evtId = s.evtId := rfl
@[simp] theorem setMon_evtValue (s : State) (i : Nat) (e : Monitor) : (setMon s i e).evtValue = s.evtValue := rfl
@[simp] theorem setMon_evtStatus (s : State) (i : Nat) (e : Monitor) : (setMon s i e).evtStatus = s.evtStatus := rfl
@[simp] theorem setMon_evtTs (s : State) (i : Nat) (e : Monitor) : (setMon s i e).evtTs = s.evtTs := rfl
@[simp] theorem setMon_fifo (s : State) (i : Nat) (e : Monitor) : (setMon s i e).fifo = s.fifo := rfl
@[simp] theorem setMon_outs (s : State) (i : Nat) (e : Monitor) : (setMon s i e).outs = s.outs := rfl
@[simp] theorem setMon_wakes (s : State) (i : Nat) (e : Monitor) : (setMon s i e).wakes = s.wakes := rfl
@[simp] theorem setMon_sigs (s : State) (i : Nat) (e : Monitor) : (setMon s i e).sigs = s.sigs := rfl
@[simp] theorem setMon_mrgs (s : State) (i : Nat) (e : Monitor) : (setMon s i e).mrgs = s.mrgs := rfl
@[simp] theorem setMon_mons (s : State) (i : Nat) (e : Monitor) : (setMon s i e).mons = s.mons.set i e := rfl
@[simp] theorem setMon_cycs (s : State) (i : Nat) (e : Monitor) : (setMon s i e).cycs = s.cycs := rfl
@[simp] theorem setMon_xfs (s : State) (i : Nat) (e : Monitor) : (setMon s i e).xfs = s.xfs := rfl
@[simp] theorem setMon_seq (s : State) (i : Nat) (e : Monitor) : (setMon s i e).seq = s.seq := rfl
@[simp] theorem setMon_maxEvents (s : State) (i : Nat) (e : Monitor) : (setMon s i e).maxEvents = s.maxEvents := rfl
@[simp] theorem setMon_maxOutputEvents (s : State) (i : Nat) (e : Monitor) : (setMon s i e).maxOutputEvents = s.maxOutputEvents := rfl
@[simp] theorem setMon_maxWake (s : State) (i : Nat) (e : Monitor) : (setMon s i e).maxWake = s.maxWake := rfl
@[simp] theorem setMon_xform (s : State) (i : Nat) (e : Monitor) : (setMon s i e).xform = s.xform := rfl
@[simp] theorem setMon_port (s : State) (i : Nat) (e : Monitor) : (setMon s i e).port = s.port := rfl
@[simp] theorem setMon_resp (s : State) (i : Nat) (e : Monitor) : (setMon s i e).resp = s.resp := rfl

@[simp] theorem setCyc_status (s : State) (i : Nat) (e : CyclicEntry) : (setCyc s i e).status = s.status := rfl
@[simp] theorem setCyc_wakeIe (s : State) (i : Nat) (e : CyclicEntry) : (setCyc s i e).wakeIe = s.wakeIe := rfl
@[simp] theorem setCyc_now (s : State) (i : Nat) (e : CyclicEntry) : (setCyc s i e).now = s.now := rfl
@[simp] theorem setCyc_stepCnt (s : State) (i : Nat) (e : CyclicEntry) : (setCyc s i e).stepCnt = s.stepCnt := rfl
@[simp] theorem setCyc_evtId (s : State) (i : Nat) (e : CyclicEntry) : (setCyc s i e).evtId = s.evtId := rfl
@[simp] theorem setCyc_evtValue (s : State) (i : Nat) (e : CyclicEntry) : (setCyc s i e).evtValue = s.evtValue := rfl
@[simp] theorem setCyc_evtStatus (s : State) (i : Nat) (e : CyclicEntry) : (setCyc s i e).evtStatus = s.evtStatus := rfl
@[simp] theorem setCyc_evtTs (s : State) (i : Nat) (e : CyclicEntry) : (setCyc s i e).evtTs = s.evtTs := rfl
@[simp] theorem setCyc_fifo (s : State) (i : Nat) (e : CyclicEntry) : (setCyc s i e).fifo = s.fifo := rfl
@[simp] theorem setCyc_outs (s : State) (i : Nat) (e : CyclicEntry) : (setCyc s i e).outs = s.outs := rfl
@[simp] theorem setCyc_wakes (s : State) (i : Nat) (e : CyclicEntry) : (setCyc s i e).wakes = s.wakes := rfl
@[simp] theorem setCyc_sigs (s : State) (i : Nat) (e : CyclicEntry) : (setCyc s i e).sigs = s.sigs := rfl
@[simp] theorem setCyc_mrgs (s : State) (i : Nat) (e : CyclicEntry) : (setCyc s i e).mrgs = s.mrgs := rfl
@[simp] theorem setCyc_mons (s : State) (i : Nat) (e : CyclicEntry) : (setCyc s i e).mons = s.mons := rfl
@[simp] theorem setCyc_cycs (s : State) (i : Nat) (e : CyclicEntry) : (setCyc s i e).cycs = s.cycs.set i e := rfl
@[simp] theorem setCyc_xfs (s : State) (i : Nat) (e : CyclicEntry) : (setCyc s i e).xfs = s.xfs := rfl
@[simp] theorem setCyc_seq (s : State) (i : Nat) (e : CyclicEntry) : (setCyc s i e).seq = s.seq := rfl
@[simp] theorem setCyc_maxEvents (s : State) (i : Nat) (e : CyclicEntry) : (setCyc s i e).maxEvents = s.maxEvents := rfl
@[simp] theorem setCyc_maxOutputEvents (s : State) (i : Nat) (e : CyclicEntry) : (setCyc s i e).maxOutputEvents = s.maxOutputEvents := rfl
@[simp] theorem setCyc_maxWake (s : State) (i : Nat) (e : CyclicEntry) : (setCyc s i e).maxWake = s.maxWake := rfl
@[simp] theorem setCyc_xform (s : State) (i : Nat) (e : CyclicEntry) : (setCyc s i e).xform = s.xform := rfl
@[simp] theorem setCyc_port (s : State) (i : Nat) (e : CyclicEntry) : (setCyc s i e).port = s.port := rfl
@[simp] theorem setCyc_resp (s : State) (i : Nat) (e : CyclicEntry) : (setCyc s i e).resp = s.resp := rfl

@[simp] theorem setXf_status (s : State) (i : Nat) (x : Xform) : (setXf s i x).status = s.status := rfl
@[simp] theorem setXf_wakeIe (s : State) (i : Nat) (x : Xform) : (setXf s i x).wakeIe = s.wakeIe := rfl
@[simp] theorem setXf_now (s : State) (i : Nat) (x : Xform) : (setXf s i x).now = s.now := rfl
@[simp] theorem setXf_stepCnt (s : State) (i : Nat) (x : Xform) : (setXf s i x).stepCnt = s.stepCnt := rfl
@[simp] theorem setXf_evtId (s : State) (i : Nat) (x : Xform) : (setXf s i x).evtId = s.evtId := rfl
@[simp] theorem setXf_evtValue (s : State) (i : Nat) (x : Xform) : (setXf s i x).evtValue = s.evtValue := rfl
@[simp] theorem setXf_evtStatus (s : State) (i : Nat) (x : Xform) : (setXf s i x).evtStatus = s.evtStatus := rfl
@[simp] theorem setXf_evtTs (s : State) (i : Nat) (x : Xform) : (setXf s i x).evtTs = s.evtTs := rfl
@[simp] theorem setXf_fifo (s : State) (i : Nat) (x : Xform) : (setXf s i x).fifo = s.fifo := rfl
@[simp] theorem setXf_outs (s : State) (i : Nat) (x : Xform) : (setXf s i x).outs = s.outs := rfl
@[simp] theorem setXf_wakes (s : State) (i : Nat) (x : Xform) : (setXf s i x).wakes = s.wakes := rfl
@[simp] theorem setXf_sigs (s : State) (i : Nat) (x : Xform) : (setXf s i x).sigs = s.sigs := rfl
@[simp] theorem setXf_mrgs (s : State) (i : Nat) (x : Xform) : (setXf s i x).mrgs = s.mrgs := rfl
@[simp] theorem setXf_mons (s : State) (i : Nat) (x : Xform) : (setXf s i x).mons = s.mons := rfl
@[simp] theorem setXf_cycs (s : State) (i : Nat) (x : Xform) : (setXf s i x).cycs = s.cycs := rfl
@[simp] theorem setXf_xfs (s : State) (i : Nat) (x : Xform) : (setXf s i x).xfs = s.xfs.set i x := rfl
@[simp] theorem setXf_seq (s : State) (i : Nat) (x : Xform) : (setXf s i x).seq = s.seq := rfl
@[simp] theorem setXf_maxEvents (s : State) (i : Nat) (x : Xform) : (setXf s i x).maxEvents = s.maxEvents := rfl
@[simp] theorem setXf_maxOutputEvents (s : State) (i : Nat) (x : Xform) : (setXf s i x).maxOutputEvents = s.maxOutputEvents := rfl
@[simp] theorem setXf_maxWake (s : State) (i : Nat) (x : Xform) : (setXf s i x).maxWake = s.maxWake := rfl
@[simp] theorem setXf_xform (s : State) (i : Nat) (x : Xform) : (setXf s i x).xform = s.xform := rfl
@[simp] theorem setXf_port (s : State) (i : Nat) (x : Xform) : (setXf s i x).port = s.port := rfl
@[simp] theorem setXf_resp (s : State) (i : Nat) (x : Xform) : (setXf s i x).resp = s.resp := rfl

@[simp] theorem respond_status (s : State) (r : BusResp) : (respond s r).status = s.status := rfl
@[simp] theorem respond_wakeIe (s : State) (r : BusResp) : (respond s r).wakeIe = s.wakeIe := rfl
@[simp] theorem respond_now (s : State) (r : BusResp) : (respond s r).now = s.now := rfl
@[simp] theorem respond_stepCnt (s : State) (r : BusResp) : (respond s r).stepCnt = s.stepCnt := rfl
@[simp] theorem respond_evtId (s : State) (r : BusResp) : (respond s r).evtId = s.evtId := rfl
@[simp] theorem respond_evtValue (s : State) (r : BusResp) : (respond s r).evtValue = s.evtValue := rfl
@[simp] theorem respond_evtStatus (s : State) (r : BusResp) : (respond s r).evtStatus = s.evtStatus := rfl
@[simp] theorem respond_evtTs (s : State) (r : BusResp) : (respond s r).evtTs = s.evtTs := rfl
@[simp] theorem respond_fifo (s : State) (r : BusResp) : (respond s r).fifo = s.fifo := rfl
@[simp] theorem respond_outs (s : State) (r : BusResp) : (respond s r).outs = s.outs := rfl
@[simp] theorem respond_wakes (s : State) (r : BusResp) : (respond s r).wakes = s.wakes := rfl
@[simp] theorem respond_sigs (s : State) (r : BusResp) : (respond s r).sigs = s.sigs := rfl
@[simp] theorem respond_mrgs (s : State) (r : BusResp) : (respond s r).mrgs = s.mrgs := rfl
@[simp] theorem respond_mons (s : State) (r : BusResp) : (respond s r).mons = s.mons := rfl
@[simp] theorem respond_cycs (s : State) (r : BusResp) : (respond s r).cycs = s.cycs := rfl
@[simp] theorem respond_xfs (s : State) (r : BusResp) : (respond s r).xfs = s.xfs := rfl
@[simp] theorem respond_seq (s : State) (r : BusResp) : (respond s r).seq = s.seq := rfl
@[simp] theorem respond_maxEvents (s : State) (r : BusResp) : (respond s r).maxEvents = s.maxEvents := rfl
@[simp] theorem respond_maxOutputEvents (s : State) (r : BusResp) : (respond s r).maxOutputEvents = s.maxOutputEvents := rfl
@[simp] theorem respond_maxWake (s : State) (r : BusResp) : (respond s r).maxWake = s.maxWake := rfl
@[simp] theorem respond_xform (s : State) (r : BusResp) : (respond s r).xform = s.xform := rfl
@[simp] theorem respond_port (s : State) (r : BusResp) : (respond s r).port = s.port := rfl
@[simp] theorem respond_resp (s : State) (r : BusResp) : (respond s r).resp = r := rfl

@[simp] theorem setEvtOvf_status (s : State) : (setEvtOvf s).status = { s.status with evtOvf := true } := rfl
@[simp] theorem setEvtOvf_wakeIe (s : State) : (setEvtOvf s).wakeIe = s.wakeIe := rfl
@[simp] theorem setEvtOvf_now (s : State) : (setEvtOvf s).now = s.now := rfl
@[simp] theorem setEvtOvf_stepCnt (s : State) : (setEvtOvf s).stepCnt = s.stepCnt := rfl
@[simp] theorem setEvtOvf_evtId (s : State) : (setEvtOvf s).evtId = s.evtId := rfl
@[simp] theorem setEvtOvf_evtValue (s : State) : (setEvtOvf s).evtValue = s.evtValue := rfl
@[simp] theorem setEvtOvf_evtStatus (s : State) : (setEvtOvf s).evtStatus = s.evtStatus := rfl
@[simp] theorem setEvtOvf_evtTs (s : State) : (setEvtOvf s).evtTs = s.evtTs := rfl
@[simp] theorem setEvtOvf_fifo (s : State) : (setEvtOvf s).fifo = s.fifo := rfl
@[simp] theorem setEvtOvf_outs (s : State) : (setEvtOvf s).outs = s.outs := rfl
@[simp] theorem setEvtOvf_wakes (s : State) : (setEvtOvf s).wakes = s.wakes := rfl
@[simp] theorem setEvtOvf_sigs (s : State) : (setEvtOvf s).sigs = s.sigs := rfl
@[simp] theorem setEvtOvf_mrgs (s : State) : (setEvtOvf s).mrgs = s.mrgs := rfl
@[simp] theorem setEvtOvf_mons (s : State) : (setEvtOvf s).mons = s.mons := rfl
@[simp] theorem setEvtOvf_cycs (s : State) : (setEvtOvf s).cycs = s.cycs := rfl
@[simp] theorem setEvtOvf_xfs (s : State) : (setEvtOvf s).xfs = s.xfs := rfl
@[simp] theorem setEvtOvf_seq (s : State) : (setEvtOvf s).seq = s.seq := rfl
@[simp] theorem setEvtOvf_maxEvents (s : State) : (setEvtOvf s).maxEvents = s.maxEvents := rfl
@[simp] theorem setEvtOvf_maxOutputEvents (s : State) : (setEvtOvf s).maxOutputEvents = s.maxOutputEvents := rfl
@[simp] theorem setEvtOvf_maxWake (s : State) : (setEvtOvf s).maxWake = s.maxWake := rfl
@[simp] theorem setEvtOvf_xform (s : State) : (setEvtOvf s).xform = s.xform := rfl
@[simp] theorem setEvtOvf_port (s : State) : (setEvtOvf s).port = s.port := rfl
@[simp] theorem setEvtOvf_resp (s : State) : (setEvtOvf s).resp = s.resp := rfl

@[simp] theorem setWakePend_status (s : State) : (setWakePend s).status = { s.status with wakePend := true } := rfl
@[simp] theorem setWakePend_wakeIe (s : State) : (setWakePend s).wakeIe = s.wakeIe := rfl
@[simp] theorem setWakePend_now (s : State) : (setWakePend s).now = s.now := rfl
@[simp] theorem setWakePend_stepCnt (s : State) : (setWakePend s).stepCnt = s.stepCnt := rfl
@[simp] theorem setWakePend_evtId (s : State) : (setWakePend s).evtId = s.evtId := rfl
@[simp] theorem setWakePend_evtValue (s : State) : (setWakePend s).evtValue = s.evtValue := rfl
@[simp] theorem setWakePend_evtStatus (s : State) : (setWakePend s).evtStatus = s.evtStatus := rfl
@[simp] theorem setWakePend_evtTs (s : State) : (setWakePend s).evtTs = s.evtTs := rfl
@[simp] theorem setWakePend_fifo (s : State) : (setWakePend s).fifo = s.fifo := rfl
@[simp] theorem setWakePend_outs (s : State) : (setWakePend s).outs = s.outs := rfl
@[simp] theorem setWakePend_wakes (s : State) : (setWakePend s).wakes = s.wakes := rfl
@[simp] theorem setWakePend_sigs (s : State) : (setWakePend s).sigs = s.sigs := rfl
@[simp] theorem setWakePend_mrgs (s : State) : (setWakePend s).mrgs = s.mrgs := rfl
@[simp] theorem setWakePend_mons (s : State) : (setWakePend s).mons = s.mons := rfl
@[simp] theorem setWakePend_cycs (s : State) : (setWakePend s).cycs = s.cycs := rfl
@[simp] theorem setWakePend_xfs (s : State) : (setWakePend s).xfs = s.xfs := rfl
@[simp] theorem setWakePend_seq (s : State) : (setWakePend s).seq = s.seq := rfl
@[simp] theorem setWakePend_maxEvents (s : State) : (setWakePend s).maxEvents = s.maxEvents := rfl
@[simp] theorem setWakePend_maxOutputEvents (s : State) : (setWakePend s).maxOutputEvents = s.maxOutputEvents := rfl
@[simp] theorem setWakePend_maxWake (s : State) : (setWakePend s).maxWake = s.maxWake := rfl
@[simp] theorem setWakePend_xform (s : State) : (setWakePend s).xform = s.xform := rfl
@[simp] theorem setWakePend_port (s : State) : (setWakePend s).port = s.port := rfl
@[simp] theorem setWakePend_resp (s : State) : (setWakePend s).resp = s.resp := rfl

@[simp] theorem setWakeOvf_status (s : State) : (setWakeOvf s).status = { s.status with wakeOvf := true } := rfl
@[simp] theorem setWakeOvf_wakeIe (s : State) : (setWakeOvf s).wakeIe = s.wakeIe := rfl
@[simp] theorem setWakeOvf_now (s : State) : (setWakeOvf s).now = s.now := rfl
@[simp] theorem setWakeOvf_stepCnt (s : State) : (setWakeOvf s).stepCnt = s.stepCnt := rfl
@[simp] theorem setWakeOvf_evtId (s : State) : (setWakeOvf s).evtId = s.evtId := rfl
@[simp] theorem setWakeOvf_evtValue (s : State) : (setWakeOvf s).evtValue = s.evtValue := rfl
@[simp] theorem setWakeOvf_evtStatus (s : State) : (setWakeOvf s).evtStatus = s.evtStatus := rfl
@[simp] theorem setWakeOvf_evtTs (s : State) : (setWakeOvf s).evtTs = s.evtTs := rfl
@[simp] theorem setWakeOvf_fifo (s : State) : (setWakeOvf s).fifo = s.fifo := rfl
@[simp] theorem setWakeOvf_outs (s : State) : (setWakeOvf s).outs = s.outs := rfl
@[simp] theorem setWakeOvf_wakes (s : State) : (setWakeOvf s).wakes = s.wakes := rfl
@[simp] theorem setWakeOvf_sigs (s : State) : (setWakeOvf s).sigs = s.sigs := rfl
@[simp] theorem setWakeOvf_mrgs (s : State) : (setWakeOvf s).mrgs = s.mrgs := rfl
@[simp] theorem setWakeOvf_mons (s : State) : (setWakeOvf s).mons = s.mons := rfl
@[simp] theorem setWakeOvf_cycs (s : State) : (setWakeOvf s).cycs = s.cycs := rfl
@[simp] theorem setWakeOvf_xfs (s : State) : (setWakeOvf s).xfs = s.xfs := rfl
@[simp] theorem setWakeOvf_seq (s : State) : (setWakeOvf s).seq = s.seq := rfl
@[simp] theorem setWakeOvf_maxEvents (s : State) : (setWakeOvf s).maxEvents = s.maxEvents := rfl
@[simp] theorem setWakeOvf_maxOutputEvents (s : State) : (setWakeOvf s).maxOutputEvents = s.maxOutputEvents := rfl
@[simp] theorem setWakeOvf_maxWake (s : State) : (setWakeOvf s).maxWake = s.maxWake := rfl
@[simp] theorem setWakeOvf_xform (s : State) : (setWakeOvf s).xform = s.xform := rfl
@[simp] theorem setWakeOvf_port (s : State) : (setWakeOvf s).port = s.port := rfl
@[simp] theorem setWakeOvf_resp (s : State) : (setWakeOvf s).resp = s.resp := rfl

@[simp] theorem setCmdErr_status (s : State) : (setCmdErr s).status = { s.status with cmdErr := true } := rfl
@[simp] theorem setCmdErr_wakeIe (s : State) : (setCmdErr s).wakeIe = s.wakeIe := rfl
@[simp] theorem setCmdErr_now (s : State) : (setCmdErr s).now = s.now := rfl
@[simp] theorem setCmdErr_stepCnt (s : State) : (setCmdErr s).stepCnt = s.stepCnt := rfl
@[simp] theorem setCmdErr_evtId (s : State) : (setCmdErr s).evtId = s.evtId := rfl
@[simp] theorem setCmdErr_evtValue (s : State) : (setCmdErr s).evtValue = s.evtValue := rfl
@[simp] theorem setCmdErr_evtStatus (s : State) : (setCmdErr s).evtStatus = s.evtStatus := rfl
@[simp] theorem setCmdErr_evtTs (s : State) : (setCmdErr s).evtTs = s.evtTs := rfl
@[simp] theorem setCmdErr_fifo (s : State) : (setCmdErr s).fifo = s.fifo := rfl
@[simp] theorem setCmdErr_outs (s : State) : (setCmdErr s).outs = s.outs := rfl
@[simp] theorem setCmdErr_wakes (s : State) : (setCmdErr s).wakes = s.wakes := rfl
@[simp] theorem setCmdErr_sigs (s : State) : (setCmdErr s).sigs = s.sigs := rfl
@[simp] theorem setCmdErr_mrgs (s : State) : (setCmdErr s).mrgs = s.mrgs := rfl
@[simp] theorem setCmdErr_mons (s : State) : (setCmdErr s).mons = s.mons := rfl
@[simp] theorem setCmdErr_cycs (s : State) : (setCmdErr s).cycs = s.cycs := rfl
@[simp] theorem setCmdErr_xfs (s : State) : (setCmdErr s).xfs = s.xfs := rfl
@[simp] theorem setCmdErr_seq (s : State) : (setCmdErr s).seq = s.seq := rfl
@[simp] theorem setCmdErr_maxEvents (s : State) : (setCmdErr s).maxEvents = s.maxEvents := rfl
@[simp] theorem setCmdErr_maxOutputEvents (s : State) : (setCmdErr s).maxOutputEvents = s.maxOutputEvents := rfl
@[simp] theorem setCmdErr_maxWake (s : State) : (setCmdErr s).maxWake = s.maxWake := rfl
@[simp] theorem setCmdErr_xform (s : State) : (setCmdErr s).xform = s.xform := rfl
@[simp] theorem setCmdErr_port (s : State) : (setCmdErr s).port = s.port := rfl
@[simp] theorem setCmdErr_resp (s : State) : (setCmdErr s).resp = s.resp := rfl

@[simp] theorem setSig_params (s : State) (i : Nat) (g : Signal) : (setSig s i g).params = s.params := by simp [State.params]
@[simp] theorem setMrg_params (s : State) (i : Nat) (e : MergeEntry) : (setMrg s i e).params = s.params := by simp [State.params]
@[simp] theorem setMon_params (s : State) (i : Nat) (e : Monitor) : (setMon s i e).params = s.params := by simp [State.params]
@[simp] theorem setCyc_params (s : State) (i : Nat) (e : CyclicEntry) : (setCyc s i e).params = s.params := by simp [State.params]
@[simp] theorem setXf_params (s : State) (i : Nat) (x : Xform) : (setXf s i x).params = s.params := by simp [State.params]
@[simp] theorem respond_params (s : State) (r : BusResp) : (respond s r).params = s.params := by simp [State.params]
@[simp] theorem setEvtOvf_params (s : State) : (setEvtOvf s).params = s.params := by simp [State.params]
@[simp] theorem setWakePend_params (s : State) : (setWakePend s).params = s.params := by simp [State.params]
@[simp] theorem setWakeOvf_params (s : State) : (setWakeOvf s).params = s.params := by simp [State.params]
@[simp] theorem setCmdErr_params (s : State) : (setCmdErr s).params = s.params := by simp [State.params]

@[simp] theorem resetOf_params (p : Params) : (State.resetOf p).params = p := by
  simp [State.resetOf, State.params]

end Sys2Proof.Machine
end

