-- ==== Sys2Proof/Laws/Ops.lean ====
section
/-! SUPPORT. What each shared operation can do, said once: table reads after writes, the ascending loop, the reset action,
wake records and output events. -/

namespace Sys2Proof.Machine

/-! ### Table entries -/

theorem getD_set (l : List α) (i j : Nat) (a d : α) :
    (l.set i a).getD j d = if i = j ∧ i < l.length then a else l.getD j d := by
  simp only [List.getD_eq_getElem?_getD, List.getElem?_set]
  by_cases h : i = j
  · subst h
    by_cases hl : i < l.length
    · simp [hl]
    · simp [hl]
  · simp [h]

theorem sigAt_setSig (s : State) (i j : Nat) (g : Signal) :
    sigAt (setSig s i g) j = if i = j ∧ i < s.sigs.length then g else sigAt s j := getD_set ..

theorem mrgAt_setMrg (s : State) (i j : Nat) (g : MergeEntry) :
    mrgAt (setMrg s i g) j = if i = j ∧ i < s.mrgs.length then g else mrgAt s j := getD_set ..

theorem monAt_setMon (s : State) (i j : Nat) (g : Monitor) :
    monAt (setMon s i g) j = if i = j ∧ i < s.mons.length then g else monAt s j := getD_set ..

theorem cycAt_setCyc (s : State) (i j : Nat) (g : CyclicEntry) :
    cycAt (setCyc s i g) j = if i = j ∧ i < s.cycs.length then g else cycAt s j := getD_set ..

theorem xfAt_setXf (s : State) (i j : Nat) (g : Xform) :
    xfAt (setXf s i g) j = if i = j ∧ i < s.xfs.length then g else xfAt s j := getD_set ..

@[simp] theorem sigAt_setSig_self (s : State) (i : Nat) (g : Signal) (h : i < s.sigs.length) :
    sigAt (setSig s i g) i = g := by simp [sigAt_setSig, h]

theorem sigAt_setSig_ne (s : State) (i j : Nat) (g : Signal) (h : i ≠ j) : sigAt (setSig s i g) j = sigAt s j := by
  simp [sigAt_setSig, h]

@[simp] theorem mrgAt_setMrg_self (s : State) (i : Nat) (g : MergeEntry) (h : i < s.mrgs.length) :
    mrgAt (setMrg s i g) i = g := by simp [mrgAt_setMrg, h]

@[simp] theorem monAt_setMon_self (s : State) (i : Nat) (g : Monitor) (h : i < s.mons.length) :
    monAt (setMon s i g) i = g := by simp [monAt_setMon, h]

theorem monAt_setMon_ne (s : State) (i j : Nat) (g : Monitor) (h : i ≠ j) : monAt (setMon s i g) j = monAt s j := by
  simp [monAt_setMon, h]

@[simp] theorem xfAt_setXf_self (s : State) (i : Nat) (g : Xform) (h : i < s.xfs.length) :
    xfAt (setXf s i g) i = g := by simp [xfAt_setXf, h]

@[simp] theorem cycAt_setCyc_self (s : State) (i : Nat) (g : CyclicEntry) (h : i < s.cycs.length) :
    cycAt (setCyc s i g) i = g := by simp [cycAt_setCyc, h]

/-! A table read depends on its own table only. -/

theorem sigAt_congr {s t : State} (h : s.sigs = t.sigs) (i : Nat) : sigAt s i = sigAt t i := by simp [sigAt, h]
theorem mrgAt_congr {s t : State} (h : s.mrgs = t.mrgs) (i : Nat) : mrgAt s i = mrgAt t i := by simp [mrgAt, h]
theorem monAt_congr {s t : State} (h : s.mons = t.mons) (i : Nat) : monAt s i = monAt t i := by simp [monAt, h]
theorem cycAt_congr {s t : State} (h : s.cycs = t.cycs) (i : Nat) : cycAt s i = cycAt t i := by simp [cycAt, h]
theorem xfAt_congr {s t : State} (h : s.xfs = t.xfs) (i : Nat) : xfAt s i = xfAt t i := by simp [xfAt, h]

@[simp] theorem sigAt_respond (s : State) (r : BusResp) (i : Nat) : sigAt (respond s r) i = sigAt s i := rfl
@[simp] theorem mrgAt_respond (s : State) (r : BusResp) (m : Nat) : mrgAt (respond s r) m = mrgAt s m := rfl
@[simp] theorem monAt_respond (s : State) (r : BusResp) (k : Nat) : monAt (respond s r) k = monAt s k := rfl
@[simp] theorem cycAt_respond (s : State) (r : BusResp) (c : Nat) : cycAt (respond s r) c = cycAt s c := rfl
@[simp] theorem xfAt_respond (s : State) (r : BusResp) (x : Nat) : xfAt (respond s r) x = xfAt s x := rfl
@[simp] theorem params_respond (s : State) (r : BusResp) : (respond s r).params = s.params := rfl

/-- Validity of a monitor depends on the number of signals only (44_fault_monitor.md R240). -/
theorem monValid_congr {s t : State} (h : s.sigs.length = t.sigs.length) (k : Monitor) : monValid s k = monValid t k := by
  simp [monValid, sigInRange, h]

/-- A table entry in range is the entry at its index. -/
theorem getElem?_of_getD {l : List α} {i : Nat} (d : α) (h : i < l.length) : l[i]? = some (l.getD i d) := by
  simp [List.getD_eq_getElem?_getD, h]

/-- An entry of a mapped table. -/
theorem getD_map (l : List α) (f : α → β) (i : Nat) (d : α) (e : β) (h : i < l.length) :
    (l.map f).getD i e = f (l.getD i d) := by
  simp [List.getD_eq_getElem?_getD, h]

/-- An entry of a table mapped with its index. -/
theorem getD_mapIdx (l : List α) (f : Nat → α → β) (i : Nat) (d : α) (e : β) (h : i < l.length) :
    (l.mapIdx f).getD i e = f i (l.getD i d) := by
  simp [List.getD_eq_getElem?_getD, h]

/-- Writing an entry back as it is changes nothing. -/
theorem set_getD_self (l : List α) (i : Nat) (d : α) : l.set i (l.getD i d) = l := by
  apply List.ext_getElem?
  intro j
  simp only [List.getElem?_set, List.getD_eq_getElem?_getD]
  by_cases h : i = j
  · subst h; by_cases hl : i < l.length <;> simp [hl]
  · simp [h]

@[simp] theorem setSig_sigAt (s : State) (i : Nat) : setSig s i (sigAt s i) = s := by simp only [setSig, sigAt, set_getD_self]
@[simp] theorem setMon_monAt (s : State) (i : Nat) : setMon s i (monAt s i) = s := by simp only [setMon, monAt, set_getD_self]

/-! ### The ascending loop -/

@[simp] theorem ascending_zero (f : Nat → State → State) (s : State) : ascending 0 f s = s := rfl

theorem ascending_succ (k : Nat) (f : Nat → State → State) (s : State) :
    ascending (k + 1) f s = f k (ascending k f s) := rfl

/-- The loop is a fold over the indices in ascending order. -/
theorem ascending_eq_foldl (n : Nat) (f : Nat → State → State) (s : State) :
    ascending n f s = (List.range n).foldl (fun t i => f i t) s := by
  induction n with
  | zero => rfl
  | succ k ih => rw [List.range_succ, List.foldl_append, ascending_succ, ih]; rfl

/-- What every iteration keeps, the loop keeps. -/
theorem ascending_keeps (P : State → Prop) (n : Nat) (f : Nat → State → State) (s : State)
    (hf : ∀ i t, i < n → P t → P (f i t)) (hs : P s) : P (ascending n f s) := by
  induction n with
  | zero => exact hs
  | succ k ih => exact hf k _ (Nat.lt_succ_self k) (ih fun i t hi => hf i t (Nat.lt_succ_of_lt hi))

/-- A quantity that no iteration changes is what it was before the loop. -/
theorem ascending_same (g : State → β) (n : Nat) (f : Nat → State → State) (s : State)
    (hf : ∀ i t, i < n → g (f i t) = g t) : g (ascending n f s) = g s :=
  ascending_keeps (fun t => g t = g s) n f s (fun i t hi ht => (hf i t hi).trans ht) rfl

/-- Two loops whose iterations commute with a change of state `c` commute with it. -/
theorem ascending_comm (c : State → State) (n : Nat) (f : Nat → State → State) (s : State)
    (hf : ∀ i t, f i (c t) = c (f i t)) : ascending n f (c s) = c (ascending n f s) := by
  induction n with
  | zero => rfl
  | succ k ih => simp only [ascending_succ, ih, hf]

/-! ### Reset -/

/-- RESET_ALL gives the reset state of the same build, with what waits at the port and the last response kept
(70_reset_and_hazards.md R340). -/
theorem resetAll_eq (s : State) :
    resetAll s = { State.resetOf s.params with port := s.port, resp := s.resp } := by
  simp [resetAll, State.resetOf, State.params, List.map_const']

@[simp] theorem resetAll_params (s : State) : (resetAll s).params = s.params := by
  simp [resetAll, State.params]

/-! ### Wake records and output events -/

/-- `emit_wake` with room: the record is appended (44_fault_monitor.md R255). -/
theorem emitWake_room (k : Nat) (v lvl : Word) (src : Bool) (s : State) (h : s.wakes.length < s.maxWake) :
    emitWake k v lvl src s =
      { s with status := { s.status with wakePend := true }
               wakes := s.wakes ++ [⟨BitVec.ofNat 8 k, v, lvl, src⟩] } := by
  simp [emitWake, h, setWakePend]

/-- `emit_wake` with a full buffer: the record is dropped (44_fault_monitor.md R255). -/
theorem emitWake_full (k : Nat) (v lvl : Word) (src : Bool) (s : State) (h : ¬ s.wakes.length < s.maxWake) :
    emitWake k v lvl src s = { s with status := { s.status with wakePend := true, wakeOvf := true } } := by
  simp [emitWake, h, setWakePend, setWakeOvf]

/-- `emit_wake` writes STATUS and the wake buffer only. -/
theorem emitWake_only (k : Nat) (v lvl : Word) (src : Bool) (s : State) :
    emitWake k v lvl src s =
      { s with status := (emitWake k v lvl src s).status, wakes := (emitWake k v lvl src s).wakes } := by
  by_cases h : s.wakes.length < s.maxWake
  · rw [emitWake_room _ _ _ _ _ h]
  · rw [emitWake_full _ _ _ _ _ h]

/-- The wake buffer after `emit_wake` never exceeds its capacity (10_state.md R35). -/
theorem emitWake_bound (k : Nat) (v lvl : Word) (src : Bool) (s : State) (h : s.wakes.length ≤ s.maxWake) :
    (emitWake k v lvl src s).wakes.length ≤ s.maxWake := by
  by_cases h' : s.wakes.length < s.maxWake
  · rw [emitWake_room _ _ _ _ _ h']; simpa using h'
  · rw [emitWake_full _ _ _ _ _ h']; exact h

/-- `emit_wake` touches WAKE_PEND and WAKE_OVF of STATUS, and sets WAKE_PEND. -/
theorem emitWake_status (k : Nat) (v lvl : Word) (src : Bool) (s : State) :
    (emitWake k v lvl src s).status.evtOvf = s.status.evtOvf ∧
    (emitWake k v lvl src s).status.cmdErr = s.status.cmdErr ∧
    (emitWake k v lvl src s).status.wakePend = true := by
  by_cases h : s.wakes.length < s.maxWake
  · rw [emitWake_room _ _ _ _ _ h]; simp
  · rw [emitWake_full _ _ _ _ _ h]; simp

/-- `append_out` writes the output buffer only (46_output_scheduler.md R292). -/
theorem appendOut_only (tgt v : Word) (ts : U64) (s : State) :
    appendOut tgt v ts s = { s with outs := (appendOut tgt v ts s).outs } := by
  unfold appendOut; split <;> rfl

/-- The output buffer after `append_out` never exceeds its capacity (10_state.md R34). -/
theorem appendOut_bound (tgt v : Word) (ts : U64) (s : State) (h : s.outs.length ≤ s.maxOutputEvents) :
    (appendOut tgt v ts s).outs.length ≤ s.maxOutputEvents := by
  unfold appendOut; split
  · simp; omega
  · exact h

end Sys2Proof.Machine
end

