-- ==== Sys2Proof/Laws/AddressMap.lean ====
section
/-! SUPPORT. The address map, both ways: what it finds is a named word of the build at its own offset, and every named word
of a legal build is found (20_memory.md R71 to R73). -/

namespace Sys2Proof.Machine

/-- The address map finds what `entryAt` finds: an entry below the capacity, at stride times index plus the word offset. -/
theorem entryAt_some {cap stride o : Nat} {fieldAt : Nat → Option φ} {mk : Nat → φ → Reg} {r : Reg}
    (h : entryAt cap stride o fieldAt mk = some r) :
    ∃ f, o / stride < cap ∧ fieldAt (o % stride) = some f ∧ r = mk (o / stride) f := by
  unfold entryAt at h
  split at h
  · obtain ⟨f, h1, h2⟩ := Option.map_eq_some_iff.mp h
    exact ⟨f, ‹_›, h1, h2.symm⟩
  · cases h

theorem entryAt_mk {cap stride i k : Nat} {fieldAt : Nat → Option φ} {mk : Nat → φ → Reg} {f : φ} (hi : i < cap)
    (hk : k < stride) (hf : fieldAt k = some f) : entryAt cap stride (stride * i + k) fieldAt mk = some (mk i f) := by
  have h1 : (stride * i + k) / stride = i := by
    rw [Nat.mul_add_div (by omega), Nat.div_eq_of_lt hk, Nat.add_zero]
  have h2 : (stride * i + k) % stride = k := by rw [Nat.mul_add_mod, Nat.mod_eq_of_lt hk]
  simp [entryAt, h1, h2, hi, hf]

/-- The same with the window's base added (20_memory.md R72). -/
theorem entryAt_base {cap stride i k base : Nat} {fieldAt : Nat → Option φ} {mk : Nat → φ → Reg} {f : φ} (hi : i < cap)
    (hk : k < stride) (hf : fieldAt k = some f) :
    entryAt cap stride (base + stride * i + k - base) fieldAt mk = some (mk i f) := by
  rw [show base + stride * i + k - base = stride * i + k by omega]; exact entryAt_mk hi hk hf

theorem controlAt_some {o : Nat} {r : Reg} (h : controlAt o = some r) : ∀ p, regExists p r = true ∧ regOffset r = o := by
  unfold controlAt at h
  split at h <;> first | (cases h; done) | (cases h; intro p; exact ⟨rfl, rfl⟩)

theorem outFieldAt_some {k : Nat} {f : OutField} (h : outFieldAt k = some f) (i : Nat) :
    regOffset (.out i f) = 0x1000 + 16 * i + k := by
  unfold outFieldAt at h; split at h <;> cases h <;> rfl

theorem wakeFieldAt_some {k : Nat} {f : WakeField} (h : wakeFieldAt k = some f) (i : Nat) :
    regOffset (.wake i f) = 0x2000 + 16 * i + k := by
  unfold wakeFieldAt at h; split at h <;> cases h <;> rfl

theorem mrgFieldAt_some {k : Nat} {f : MrgField} (h : mrgFieldAt k = some f) (i : Nat) :
    regOffset (.mrg i f) = 0x4000 + 64 * i + k := by
  unfold mrgFieldAt at h; split at h <;> cases h <;> rfl

theorem monFieldAt_some {k : Nat} {f : MonField} (h : monFieldAt k = some f) (i : Nat) :
    regOffset (.mon i f) = 0x8000 + 128 * i + k := by
  unfold monFieldAt at h; split at h <;> cases h <;> rfl

theorem cycFieldAt_some {k : Nat} {f : CycField} (h : cycFieldAt k = some f) (i : Nat) :
    regOffset (.cyc i f) = 0x10000 + 32 * i + k := by
  unfold cycFieldAt at h; split at h <;> cases h <;> rfl

theorem xfFieldAt_some {k : Nat} {f : XfField} (h : xfFieldAt k = some f) (i : Nat) :
    regOffset (.xf i f) = 0x12000 + 32 * i + k := by
  unfold xfFieldAt at h; split at h <;> cases h <;> rfl

theorem sigFieldAt_some {k : Nat} {f : SigField} (h : sigFieldAt k = some f) (i : Nat) :
    regOffset (.sig i f) = 0x20000 + 32 * i + k := by
  unfold sigFieldAt at h; split at h <;> cases h <;> rfl

/-- What the address map finds is a named word of the build, at its own offset (20_memory.md R71, R72). -/
theorem regAt_some {p : Params} {a : Addr} {r : Reg} (h : regAt p a = some r) :
    regExists p r = true ∧ regOffset r = a.toNat := by
  unfold regAt at h; dsimp only at h
  split at h
  · exact controlAt_some h p
  split at h
  · obtain ⟨f, h1, h2, rfl⟩ := entryAt_some h
    refine ⟨by simpa [regExists] using h1, ?_⟩
    rw [outFieldAt_some h2]; omega
  split at h
  · obtain ⟨f, h1, h2, rfl⟩ := entryAt_some h
    refine ⟨by simpa [regExists] using h1, ?_⟩
    rw [wakeFieldAt_some h2]; omega
  split at h
  · cases h
  split at h
  · obtain ⟨f, h1, h2, rfl⟩ := entryAt_some h
    refine ⟨by simpa [regExists] using h1, ?_⟩
    rw [mrgFieldAt_some h2]; omega
  split at h
  · obtain ⟨f, h1, h2, rfl⟩ := entryAt_some h
    refine ⟨by simpa [regExists] using h1, ?_⟩
    rw [monFieldAt_some h2]; omega
  split at h
  · obtain ⟨f, h1, h2, rfl⟩ := entryAt_some h
    refine ⟨by simpa [regExists] using h1, ?_⟩
    rw [cycFieldAt_some h2]; omega
  split at h
  · obtain ⟨f, h1, h2, rfl⟩ := entryAt_some h
    refine ⟨by simpa [regExists] using h1, ?_⟩
    rw [xfFieldAt_some h2]; omega
  split at h
  · cases h
  · obtain ⟨f, h1, h2, rfl⟩ := entryAt_some h
    refine ⟨by simpa [regExists] using h1, ?_⟩
    rw [sigFieldAt_some h2]; omega

@[simp] theorem regExists_mrg (s : State) (i : Nat) (f : MrgField) :
    regExists s.params (.mrg i f) = true ↔ i < s.mrgs.length := decide_eq_true_iff
@[simp] theorem regExists_mon (s : State) (i : Nat) (f : MonField) :
    regExists s.params (.mon i f) = true ↔ i < s.mons.length := decide_eq_true_iff
@[simp] theorem regExists_cyc (s : State) (i : Nat) (f : CycField) :
    regExists s.params (.cyc i f) = true ↔ i < s.cycs.length := decide_eq_true_iff
@[simp] theorem regExists_xf (s : State) (i : Nat) (f : XfField) :
    regExists s.params (.xf i f) = true ↔ i < s.xfs.length := decide_eq_true_iff
@[simp] theorem regExists_sig (s : State) (i : Nat) (f : SigField) :
    regExists s.params (.sig i f) = true ↔ i < s.sigs.length := decide_eq_true_iff

/-- In a legal build the word is found wherever its offset is (20_memory.md R72). -/
theorem regAt_at {p : Params} {r : Reg} {a : Addr} (hp : p.legal) (hr : regExists p r = true)
    (ha : a.toNat = regOffset r) : regAt p a = some r := by
  obtain ⟨⟨h1, h2⟩, ⟨h3, h4⟩, h5, h6, h7, h8, ⟨h9, h10⟩, h11, h12⟩ := hp
  unfold regAt; dsimp only
  rw [ha]
  cases r with
  | out i f =>
    simp only [regExists, decide_eq_true_eq] at hr
    rw [if_neg, if_pos]
    · cases f <;> exact entryAt_base hr (by decide) rfl
    all_goals (cases f <;> simp only [regOffset] <;> omega)
  | wake i f =>
    simp only [regExists, decide_eq_true_eq] at hr
    rw [if_neg, if_neg, if_pos]
    · cases f <;> exact entryAt_base hr (by decide) rfl
    all_goals (cases f <;> simp only [regOffset] <;> omega)
  | mrg i f =>
    simp only [regExists, decide_eq_true_eq] at hr
    rw [if_neg, if_neg, if_neg, if_neg, if_pos]
    · cases f <;> exact entryAt_base hr (by decide) rfl
    all_goals (cases f <;> simp only [regOffset] <;> omega)
  | mon i f =>
    simp only [regExists, decide_eq_true_eq] at hr
    rw [if_neg, if_neg, if_neg, if_neg, if_neg, if_pos]
    · cases f <;> exact entryAt_base hr (by decide) rfl
    all_goals (cases f <;> simp only [regOffset] <;> omega)
  | cyc i f =>
    simp only [regExists, decide_eq_true_eq] at hr
    rw [if_neg, if_neg, if_neg, if_neg, if_neg, if_neg, if_pos]
    · cases f <;> exact entryAt_base hr (by decide) rfl
    all_goals (cases f <;> simp only [regOffset] <;> omega)
  | xf i f =>
    simp only [regExists, decide_eq_true_eq] at hr
    rw [if_neg, if_neg, if_neg, if_neg, if_neg, if_neg, if_neg, if_pos]
    · cases f <;> exact entryAt_base hr (by decide) rfl
    all_goals (cases f <;> simp only [regOffset] <;> omega)
  | sig i f =>
    simp only [regExists, decide_eq_true_eq] at hr
    rw [if_neg, if_neg, if_neg, if_neg, if_neg, if_neg, if_neg, if_neg, if_neg]
    · cases f <;> exact entryAt_base hr (by decide) rfl
    all_goals (cases f <;> simp only [regOffset] <;> omega)
  | _ => rfl

/-- The offset of a named word of a legal build is an aligned byte offset of the window (20_memory.md R71, R72). -/
theorem regOffset_bound {p : Params} {r : Reg} (hp : p.legal) (hr : regExists p r = true) :
    regOffset r < 2 ^ 18 ∧ regOffset r % 4 = 0 := by
  obtain ⟨⟨h1, h2⟩, ⟨h3, h4⟩, h5, h6, h7, h8, ⟨h9, h10⟩, h11, h12⟩ := hp
  cases r with
  | out i f => simp only [regExists, decide_eq_true_eq] at hr; cases f <;> simp only [regOffset] <;> omega
  | wake i f => simp only [regExists, decide_eq_true_eq] at hr; cases f <;> simp only [regOffset] <;> omega
  | mrg i f => simp only [regExists, decide_eq_true_eq] at hr; cases f <;> simp only [regOffset] <;> omega
  | mon i f => simp only [regExists, decide_eq_true_eq] at hr; cases f <;> simp only [regOffset] <;> omega
  | cyc i f => simp only [regExists, decide_eq_true_eq] at hr; cases f <;> simp only [regOffset] <;> omega
  | xf i f => simp only [regExists, decide_eq_true_eq] at hr; cases f <;> simp only [regOffset] <;> omega
  | sig i f => simp only [regExists, decide_eq_true_eq] at hr; cases f <;> simp only [regOffset] <;> omega
  | _ => exact ⟨by decide, by decide⟩

theorem addrOf_toNat {p : Params} {r : Reg} (hp : p.legal) (hr : regExists p r = true) :
    (addrOf r).toNat = regOffset r := by
  simpa [addrOf] using (regOffset_bound hp hr).1

/-- In a legal build every named word is found at its offset (20_memory.md R71, R72). -/
theorem regAt_addrOf {p : Params} {r : Reg} (hp : p.legal) (hr : regExists p r = true) : regAt p (addrOf r) = some r :=
  regAt_at hp hr (addrOf_toNat hp hr)

/-- Two offsets that find one word are one offset: no word stands twice in the map (20_memory.md R71). -/
theorem regAt_inj {p : Params} {a b : Addr} {r : Reg} (ha : regAt p a = some r) (hb : regAt p b = some r) : a = b :=
  BitVec.eq_of_toNat_eq ((regAt_some ha).2.symm.trans (regAt_some hb).2)

/-- An offset that is no named word of the build is reserved (20_memory.md R73). -/
theorem regAt_none {p : Params} {a : Addr} (h : ∀ r, regExists p r = true → regOffset r ≠ a.toNat) : regAt p a = none := by
  cases hr : regAt p a with
  | none => rfl
  | some r => exact absurd (regAt_some hr).2 (h r (regAt_some hr).1)

end Sys2Proof.Machine
end

