-- ==== Sys2Proof/Laws/Decode.lean ====
section
/-! SUPPORT. The fields of a built transaction and of a built selector, and how the decoder reads them. -/

namespace Sys2Proof

@[simp] theorem txnWrite_mkTxn (wr : Bool) (sz : BitVec 2) (a : Addr) (d : Word) : txnWrite (mkTxn wr sz a d) = wr := by
  simp only [txnWrite, mkTxn, BitVec.getLsbD_append]
  cases wr <;> rfl

@[simp] theorem txnSize_mkTxn (wr : Bool) (sz : BitVec 2) (a : Addr) (d : Word) : txnSize (mkTxn wr sz a d) = sz := by
  ext i hi
  simp only [txnSize, mkTxn, BitVec.getElem_extractLsb', BitVec.getLsbD_append]
  have h1 : ¬ 50 + i < 32 := by omega
  have h2 : ¬ 50 + i - 32 < 18 := by omega
  have h3 : 50 + i - 32 - 18 = i := by omega
  simp [h1, h2, h3, hi, BitVec.getLsbD_eq_getElem]

@[simp] theorem txnAddr_mkTxn (wr : Bool) (sz : BitVec 2) (a : Addr) (d : Word) : txnAddr (mkTxn wr sz a d) = a := by
  ext i hi
  simp only [txnAddr, mkTxn, BitVec.getElem_extractLsb', BitVec.getLsbD_append]
  have h1 : ¬ 32 + i < 32 := by omega
  have h3 : 32 + i - 32 = i := by omega
  simp [h1, h3, hi, BitVec.getLsbD_eq_getElem]

@[simp] theorem txnData_mkTxn (wr : Bool) (sz : BitVec 2) (a : Addr) (d : Word) : txnData (mkTxn wr sz a d) = d := by
  ext i hi
  simp only [txnData, mkTxn, BitVec.getElem_extractLsb', BitVec.getLsbD_append, Nat.zero_add, if_pos hi]
  exact BitVec.getLsbD_eq_getElem hi

/-- Every transaction is the concatenation of its four fields (30_encoding.md R101). -/
theorem mkTxn_fields (t : Txn) : mkTxn (txnWrite t) (txnSize t) (txnAddr t) (txnData t) = t := by
  apply BitVec.eq_of_getLsbD_eq
  intro i hi
  simp only [mkTxn, txnWrite, txnSize, txnAddr, txnData, BitVec.getLsbD_append, BitVec.getLsbD_extractLsb']
  by_cases h1 : i < 32
  · simp [h1]
  · by_cases h2 : i - 32 < 18
    · have : 32 + (i - 32) = i := by omega
      simp [h1, h2, this]
    · by_cases h3 : i - 32 - 18 < 2
      · have : 50 + (i - 32 - 18) = i := by omega
        simp [h1, h2, h3, this]
      · have : i = 52 := by omega
        subst this; simp

theorem selector_en_lsb (en : Bool) (mt : BitVec 3) (nin : BitVec 4) : (mkSelector en mt nin).getLsbD 0 = en := by
  simp only [mkSelector, BitVec.getLsbD_append]
  cases en <;> rfl

@[simp] theorem selector_en (en : Bool) (mt : BitVec 3) (nin : BitVec 4) : (mkSelector en mt nin)[0] = en := by
  rw [← BitVec.getLsbD_eq_getElem]; exact selector_en_lsb ..

@[simp] theorem selectorMethod_mkSelector (en : Bool) (mt : BitVec 3) (nin : BitVec 4) :
    selectorMethod (mkSelector en mt nin) = mt := by
  ext i hi
  have h1 : ¬ 4 + i < 1 := by omega
  have h2 : ¬ 4 + i - 1 < 3 := by omega
  have h3 : 4 + i - 1 - 3 = i := by omega
  simp only [selectorMethod, mkSelector, BitVec.getElem_extractLsb', BitVec.getLsbD_append, h1, h2, h3, hi, if_true,
    if_false]
  exact BitVec.getLsbD_eq_getElem hi

@[simp] theorem selectorNin_mkSelector (en : Bool) (mt : BitVec 3) (nin : BitVec 4) :
    (mkSelector en mt nin).extractLsb' 8 4 = nin := by
  ext i hi
  have h1 : ¬ 8 + i < 1 := by omega
  have h2 : ¬ 8 + i - 1 < 3 := by omega
  have h3 : ¬ 8 + i - 1 - 3 < 3 := by omega
  have h4 : ¬ 8 + i - 1 - 3 - 3 < 1 := by omega
  have h5 : 8 + i - 1 - 3 - 3 - 1 = i := by omega
  simp only [mkSelector, BitVec.getElem_extractLsb', BitVec.getLsbD_append, h1, h2, h3, h4, h5, hi, if_true, if_false]
  exact BitVec.getLsbD_eq_getElem hi

/-- `NIN` as stored is 0..8 (30_encoding.md R110). -/
theorem legalNin_le (x : BitVec 4) : (legalNin x).toNat ≤ 8 := by
  unfold legalNin; split
  · assumption
  · decide

/-- A legal `NIN` is stored as written (30_encoding.md R110). -/
theorem legalNin_of_le (x : BitVec 4) (h : x.toNat ≤ 8) : legalNin x = x := by simp [legalNin, h]

/-! ### The command word -/

theorem decodeCommand_reserved (d : Word) (h : 5 ≤ d.toNat) : decodeCommand d = .cmdReserved d := by
  unfold decodeCommand; split <;> first | omega | rfl

/-- The four values of a two-bit field. -/
theorem two_bits (b : BitVec 2) : b = 0#2 ∨ b = 1#2 ∨ b = 2#2 ∨ b = 3#2 := by revert b; decide

/-- A decoded command is well-formed and encodes to its write of `CMD` (30_encoding.md R104). -/
theorem decodeCommand_spec (d : Word) :
    (decodeCommand d).wellFormed = true ∧ encode (decodeCommand d) = .transaction (mkCommand d) := by
  have key : ∀ k : Nat, d.toNat = k → d = BitVec.ofNat 32 k := fun k h => by rw [← h]; simp
  by_cases h : 5 ≤ d.toNat
  · rw [decodeCommand_reserved d h]; simp [Instr.wellFormed, encode, h]
  · obtain h | h | h | h | h : d.toNat = 0 ∨ d.toNat = 1 ∨ d.toNat = 2 ∨ d.toNat = 3 ∨ d.toNat = 4 := by omega
    all_goals rw [key _ h]; decide

end Sys2Proof
end

