-- ==== Sys2Proof/Laws/Phases.lean ====
section
/-! SUPPORT. What each phase of a step can write (40_host_interface.md R154), said once per function: a phase is its
argument with the named fields replaced, and every other field as it was. -/

namespace Sys2Proof.Machine

/-! ### Phases 0 and 1 -/

theorem ingestOne_only (e : Event) (s : State) : ingestOne e s = { s with sigs := (ingestOne e s).sigs } := rfl

theorem fastCheck_only (e : Event) (k : Nat) (s : State) :
    fastCheck e k s = { s with status := (fastCheck e k s).status, wakes := (fastCheck e k s).wakes } := by
  unfold fastCheck; split
  · exact emitWake_only ..
  · rfl

/-- The fields an iteration may write are the fields the loop may write: STATUS and the wake buffer. -/
theorem ascending_only_wakes (n : Nat) (f : Nat → State → State) (s : State)
    (hf : ∀ i t, f i t = { t with status := (f i t).status, wakes := (f i t).wakes }) :
    ascending n f s = { s with status := (ascending n f s).status, wakes := (ascending n f s).wakes } := by
  induction n with
  | zero => rfl
  | succ k ih => simp only [ascending_succ]; rw [hf, ih]

/-- The same for the signal table. -/
theorem ascending_only_sigs (n : Nat) (f : Nat → State → State) (s : State)
    (hf : ∀ i t, f i t = { t with sigs := (f i t).sigs }) :
    ascending n f s = { s with sigs := (ascending n f s).sigs } := by
  induction n with
  | zero => rfl
  | succ k ih => simp only [ascending_succ]; rw [hf, ih]

/-- The same for the output buffer and the cyclic table. -/
theorem ascending_only_cyclic (n : Nat) (f : Nat → State → State) (s : State)
    (hf : ∀ i t, f i t = { t with outs := (f i t).outs, cycs := (f i t).cycs }) :
    ascending n f s = { s with outs := (ascending n f s).outs, cycs := (ascending n f s).cycs } := by
  induction n with
  | zero => rfl
  | succ k ih => simp only [ascending_succ]; rw [hf, ih]

/-- The same for what a monitor may write. -/
theorem ascending_only_monitor (n : Nat) (f : Nat → State → State) (s : State)
    (hf : ∀ i t, f i t =
      { t with status := (f i t).status, wakes := (f i t).wakes, sigs := (f i t).sigs
               mons := (f i t).mons, xfs := (f i t).xfs }) :
    ascending n f s =
      { s with status := (ascending n f s).status, wakes := (ascending n f s).wakes, sigs := (ascending n f s).sigs
               mons := (ascending n f s).mons, xfs := (ascending n f s).xfs } := by
  induction n with
  | zero => rfl
  | succ k ih => simp only [ascending_succ]; rw [hf, ih]

theorem fastPath_only (e : Event) (s : State) :
    fastPath e s = { s with status := (fastPath e s).status, wakes := (fastPath e s).wakes } :=
  ascending_only_wakes _ _ _ (fastCheck_only e)

theorem ingestEvent_only (s : State) (e : Event) :
    ingestEvent s e =
      { s with status := (ingestEvent s e).status, wakes := (ingestEvent s e).wakes, sigs := (ingestEvent s e).sigs } := by
  unfold ingestEvent; split
  · rw [fastPath_only, ingestOne_only]
  · rfl

theorem foldl_ingestEvent_only (es : List Event) (s : State) :
    es.foldl ingestEvent s =
      { s with status := (es.foldl ingestEvent s).status, wakes := (es.foldl ingestEvent s).wakes
               sigs := (es.foldl ingestEvent s).sigs } := by
  induction es generalizing s with
  | nil => rfl
  | cons e es ih => simp only [List.foldl_cons]; rw [ih, ingestEvent_only]

theorem prologue_only (s : State) :
    prologue s = { s with outs := [], wakes := [], sigs := (prologue s).sigs } := rfl

theorem ingest_only (s : State) :
    ingest s = { s with status := (ingest s).status, wakes := (ingest s).wakes, sigs := (ingest s).sigs, fifo := [] } := by
  unfold ingest; rw [foldl_ingestEvent_only]

/-! ### Phases 2 and 3 -/

theorem staleness_only (n : U64) (s : State) : staleness n s = { s with sigs := (staleness n s).sigs } := rfl

theorem mergeVote_only (vote : List Int → Nat → Int × Status) (nin : BitVec 4) (e : MergeEntry) (n : U64) (s : State) :
    mergeVote vote nin e n s = { s with sigs := (mergeVote vote nin e n s).sigs } := by
  unfold mergeVote; dsimp only; split <;> rfl

theorem mergePass_only (vote : List Int → Nat → Int × Status) (en : Bool) (nin : BitVec 4) (n : U64) (m : Nat)
    (s : State) : mergePass vote en nin n m s = { s with sigs := (mergePass vote en nin n m s).sigs } := by
  unfold mergePass; split
  · rfl
  · split
    · rfl
    · exact mergeVote_only ..

theorem mergeEntry_only (n : U64) (m : Nat) (s : State) :
    mergeEntry n m s = { s with sigs := (mergeEntry n m s).sigs } := by
  unfold mergeEntry; split
  · rfl
  · split <;> first | rfl | exact mergePass_only ..

theorem mergePhase_only (n : U64) (s : State) : mergePhase n s = { s with sigs := (mergePhase n s).sigs } :=
  ascending_only_sigs _ _ _ (mergeEntry_only n)

/-! ### Phases 4 to 7 -/

theorem faultOutput_only (n : U64) (k : Monitor) (f : Bool) (s : State) :
    faultOutput n k f s = { s with sigs := (faultOutput n k f s).sigs } := rfl

theorem cycleWake_only (i : Nat) (k : Monitor) (f : Bool) (s : State) :
    cycleWake i k f s = { s with status := (cycleWake i k f s).status, wakes := (cycleWake i k f s).wakes } := by
  unfold cycleWake; split
  · exact emitWake_only ..
  · rfl

theorem faultMemory_only (i : Nat) (f : Bool) (s : State) :
    faultMemory i f s = { s with mons := (faultMemory i f s).mons } := rfl

theorem limpFsm_only (n : U64) (f : Bool) (i : Nat) (s : State) :
    limpFsm n f i s = { s with mons := (limpFsm n f i s).mons, xfs := (limpFsm n f i s).xfs } := by
  unfold limpFsm; dsimp only
  repeat' split
  all_goals rfl

theorem monitorPass_only (n : U64) (i : Nat) (s : State) :
    monitorPass n i s =
      { s with status := (monitorPass n i s).status, wakes := (monitorPass n i s).wakes, sigs := (monitorPass n i s).sigs
               mons := (monitorPass n i s).mons, xfs := (monitorPass n i s).xfs } := by
  unfold monitorPass; dsimp only
  rw [limpFsm_only, faultMemory_only, cycleWake_only, faultOutput_only]

theorem monitorEntry_only (n : U64) (i : Nat) (s : State) :
    monitorEntry n i s =
      { s with status := (monitorEntry n i s).status, wakes := (monitorEntry n i s).wakes
               sigs := (monitorEntry n i s).sigs, mons := (monitorEntry n i s).mons, xfs := (monitorEntry n i s).xfs } := by
  unfold monitorEntry; split
  · exact monitorPass_only ..
  · rfl

theorem monitorPhase_only (n : U64) (s : State) :
    monitorPhase n s =
      { s with status := (monitorPhase n s).status, wakes := (monitorPhase n s).wakes, sigs := (monitorPhase n s).sigs
               mons := (monitorPhase n s).mons, xfs := (monitorPhase n s).xfs } :=
  ascending_only_monitor _ _ _ (monitorEntry_only n)

/-- All that Phase 5 can do: nothing under `XFORM_ID`, else what the supplied `XFORM` does (45_transform_slot.md R280 to
R282). -/
theorem transformPhase_cases (n : U64) (s : State) :
    (s.xform = .identity ∧ transformPhase n s = s) ∨
    ∃ k, s.xform = .supplied k ∧ transformPhase n s = xformSupplied k n s := by
  unfold transformPhase
  cases h : s.xform with
  | identity => exact .inl ⟨rfl, rfl⟩
  | supplied k => exact .inr ⟨k, rfl, rfl⟩

theorem transformPhase_only (n : U64) (s : State) : transformPhase n s = { s with sigs := (transformPhase n s).sigs } := by
  obtain ⟨-, h⟩ | ⟨k, -, h⟩ := transformPhase_cases n s <;> rw [h]
  rfl

theorem cyclicEntry_only (n : U64) (c : Nat) (s : State) :
    cyclicEntry n c s = { s with outs := (cyclicEntry n c s).outs, cycs := (cyclicEntry n c s).cycs } := by
  unfold cyclicEntry; split
  · unfold fireCyclic; rw [appendOut_only]; rfl
  · rfl

theorem cyclicPhase_only (n : U64) (s : State) :
    cyclicPhase n s = { s with outs := (cyclicPhase n s).outs, cycs := (cyclicPhase n s).cycs } :=
  ascending_only_cyclic _ _ _ (cyclicEntry_only n)

theorem epilogue_only (s : State) : epilogue s = { s with stepCnt := s.stepCnt + 1#32 } := rfl

/-! ### Field by field -/

@[simp] theorem prologue_status (s : State) : (prologue s).status = s.status := by rw [prologue_only]
@[simp] theorem prologue_wakeIe (s : State) : (prologue s).wakeIe = s.wakeIe := by rw [prologue_only]
@[simp] theorem prologue_now (s : State) : (prologue s).now = s.now := by rw [prologue_only]
@[simp] theorem prologue_stepCnt (s : State) : (prologue s).stepCnt = s.stepCnt := by rw [prologue_only]
@[simp] theorem prologue_evtId (s : State) : (prologue s).evtId = s.evtId := by rw [prologue_only]
@[simp] theorem prologue_evtValue (s : State) : (prologue s).evtValue = s.evtValue := by rw [prologue_only]
@[simp] theorem prologue_evtStatus (s : State) : (prologue s).evtStatus = s.evtStatus := by rw [prologue_only]
@[simp] theorem prologue_evtTs (s : State) : (prologue s).evtTs = s.evtTs := by rw [prologue_only]
@[simp] theorem prologue_fifo (s : State) : (prologue s).fifo = s.fifo := by rw [prologue_only]
@[simp] theorem prologue_mrgs (s : State) : (prologue s).mrgs = s.mrgs := by rw [prologue_only]
@[simp] theorem prologue_mons (s : State) : (prologue s).mons = s.mons := by rw [prologue_only]
@[simp] theorem prologue_cycs (s : State) : (prologue s).cycs = s.cycs := by rw [prologue_only]
@[simp] theorem prologue_xfs (s : State) : (prologue s).xfs = s.xfs := by rw [prologue_only]
@[simp] theorem prologue_seq (s : State) : (prologue s).seq = s.seq := by rw [prologue_only]
@[simp] theorem prologue_maxEvents (s : State) : (prologue s).maxEvents = s.maxEvents := by rw [prologue_only]
@[simp] theorem prologue_maxOutputEvents (s : State) : (prologue s).maxOutputEvents = s.maxOutputEvents := by rw [prologue_only]
@[simp] theorem prologue_maxWake (s : State) : (prologue s).maxWake = s.maxWake := by rw [prologue_only]
@[simp] theorem prologue_xform (s : State) : (prologue s).xform = s.xform := by rw [prologue_only]
@[simp] theorem prologue_port (s : State) : (prologue s).port = s.port := by rw [prologue_only]
@[simp] theorem prologue_resp (s : State) : (prologue s).resp = s.resp := by rw [prologue_only]

@[simp] theorem ingest_wakeIe (s : State) : (ingest s).wakeIe = s.wakeIe := by rw [ingest_only]
@[simp] theorem ingest_now (s : State) : (ingest s).now = s.now := by rw [ingest_only]
@[simp] theorem ingest_stepCnt (s : State) : (ingest s).stepCnt = s.stepCnt := by rw [ingest_only]
@[simp] theorem ingest_evtId (s : State) : (ingest s).evtId = s.evtId := by rw [ingest_only]
@[simp] theorem ingest_evtValue (s : State) : (ingest s).evtValue = s.evtValue := by rw [ingest_only]
@[simp] theorem ingest_evtStatus (s : State) : (ingest s).evtStatus = s.evtStatus := by rw [ingest_only]
@[simp] theorem ingest_evtTs (s : State) : (ingest s).evtTs = s.evtTs := by rw [ingest_only]
@[simp] theorem ingest_outs (s : State) : (ingest s).outs = s.outs := by rw [ingest_only]
@[simp] theorem ingest_mrgs (s : State) : (ingest s).mrgs = s.mrgs := by rw [ingest_only]
@[simp] theorem ingest_mons (s : State) : (ingest s).mons = s.mons := by rw [ingest_only]
@[simp] theorem ingest_cycs (s : State) : (ingest s).cycs = s.cycs := by rw [ingest_only]
@[simp] theorem ingest_xfs (s : State) : (ingest s).xfs = s.xfs := by rw [ingest_only]
@[simp] theorem ingest_seq (s : State) : (ingest s).seq = s.seq := by rw [ingest_only]
@[simp] theorem ingest_maxEvents (s : State) : (ingest s).maxEvents = s.maxEvents := by rw [ingest_only]
@[simp] theorem ingest_maxOutputEvents (s : State) : (ingest s).maxOutputEvents = s.maxOutputEvents := by rw [ingest_only]
@[simp] theorem ingest_maxWake (s : State) : (ingest s).maxWake = s.maxWake := by rw [ingest_only]
@[simp] theorem ingest_xform (s : State) : (ingest s).xform = s.xform := by rw [ingest_only]
@[simp] theorem ingest_port (s : State) : (ingest s).port = s.port := by rw [ingest_only]
@[simp] theorem ingest_resp (s : State) : (ingest s).resp = s.resp := by rw [ingest_only]

@[simp] theorem staleness_status (n : U64) (s : State) : (staleness n s).status = s.status := by rw [staleness_only]
@[simp] theorem staleness_wakeIe (n : U64) (s : State) : (staleness n s).wakeIe = s.wakeIe := by rw [staleness_only]
@[simp] theorem staleness_now (n : U64) (s : State) : (staleness n s).now = s.now := by rw [staleness_only]
@[simp] theorem staleness_stepCnt (n : U64) (s : State) : (staleness n s).stepCnt = s.stepCnt := by rw [staleness_only]
@[simp] theorem staleness_evtId (n : U64) (s : State) : (staleness n s).evtId = s.evtId := by rw [staleness_only]
@[simp] theorem staleness_evtValue (n : U64) (s : State) : (staleness n s).evtValue = s.evtValue := by rw [staleness_only]
@[simp] theorem staleness_evtStatus (n : U64) (s : State) : (staleness n s).evtStatus = s.evtStatus := by rw [staleness_only]
@[simp] theorem staleness_evtTs (n : U64) (s : State) : (staleness n s).evtTs = s.evtTs := by rw [staleness_only]
@[simp] theorem staleness_fifo (n : U64) (s : State) : (staleness n s).fifo = s.fifo := by rw [staleness_only]
@[simp] theorem staleness_outs (n : U64) (s : State) : (staleness n s).outs = s.outs := by rw [staleness_only]
@[simp] theorem staleness_wakes (n : U64) (s : State) : (staleness n s).wakes = s.wakes := by rw [staleness_only]
@[simp] theorem staleness_mrgs (n : U64) (s : State) : (staleness n s).mrgs = s.mrgs := by rw [staleness_only]
@[simp] theorem staleness_mons (n : U64) (s : State) : (staleness n s).mons = s.mons := by rw [staleness_only]
@[simp] theorem staleness_cycs (n : U64) (s : State) : (staleness n s).cycs = s.cycs := by rw [staleness_only]
@[simp] theorem staleness_xfs (n : U64) (s : State) : (staleness n s).xfs = s.xfs := by rw [staleness_only]
@[simp] theorem staleness_seq (n : U64) (s : State) : (staleness n s).seq = s.seq := by rw [staleness_only]
@[simp] theorem staleness_maxEvents (n : U64) (s : State) : (staleness n s).maxEvents = s.maxEvents := by rw [staleness_only]
@[simp] theorem staleness_maxOutputEvents (n : U64) (s : State) : (staleness n s).maxOutputEvents = s.maxOutputEvents := by rw [staleness_only]
@[simp] theorem staleness_maxWake (n : U64) (s : State) : (staleness n s).maxWake = s.maxWake := by rw [staleness_only]
@[simp] theorem staleness_xform (n : U64) (s : State) : (staleness n s).xform = s.xform := by rw [staleness_only]
@[simp] theorem staleness_port (n : U64) (s : State) : (staleness n s).port = s.port := by rw [staleness_only]
@[simp] theorem staleness_resp (n : U64) (s : State) : (staleness n s).resp = s.resp := by rw [staleness_only]

@[simp] theorem mergeEntry_status (n : U64) (m : Nat) (s : State) : (mergeEntry n m s).status = s.status := by rw [mergeEntry_only]
@[simp] theorem mergeEntry_wakeIe (n : U64) (m : Nat) (s : State) : (mergeEntry n m s).wakeIe = s.wakeIe := by rw [mergeEntry_only]
@[simp] theorem mergeEntry_now (n : U64) (m : Nat) (s : State) : (mergeEntry n m s).now = s.now := by rw [mergeEntry_only]
@[simp] theorem mergeEntry_stepCnt (n : U64) (m : Nat) (s : State) : (mergeEntry n m s).stepCnt = s.stepCnt := by rw [mergeEntry_only]
@[simp] theorem mergeEntry_evtId (n : U64) (m : Nat) (s : State) : (mergeEntry n m s).evtId = s.evtId := by rw [mergeEntry_only]
@[simp] theorem mergeEntry_evtValue (n : U64) (m : Nat) (s : State) : (mergeEntry n m s).evtValue = s.evtValue := by rw [mergeEntry_only]
@[simp] theorem mergeEntry_evtStatus (n : U64) (m : Nat) (s : State) : (mergeEntry n m s).evtStatus = s.evtStatus := by rw [mergeEntry_only]
@[simp] theorem mergeEntry_evtTs (n : U64) (m : Nat) (s : State) : (mergeEntry n m s).evtTs = s.evtTs := by rw [mergeEntry_only]
@[simp] theorem mergeEntry_fifo (n : U64) (m : Nat) (s : State) : (mergeEntry n m s).fifo = s.fifo := by rw [mergeEntry_only]
@[simp] theorem mergeEntry_outs (n : U64) (m : Nat) (s : State) : (mergeEntry n m s).outs = s.outs := by rw [mergeEntry_only]
@[simp] theorem mergeEntry_wakes (n : U64) (m : Nat) (s : State) : (mergeEntry n m s).wakes = s.wakes := by rw [mergeEntry_only]
@[simp] theorem mergeEntry_mrgs (n : U64) (m : Nat) (s : State) : (mergeEntry n m s).mrgs = s.mrgs := by rw [mergeEntry_only]
@[simp] theorem mergeEntry_mons (n : U64) (m : Nat) (s : State) : (mergeEntry n m s).mons = s.mons := by rw [mergeEntry_only]
@[simp] theorem mergeEntry_cycs (n : U64) (m : Nat) (s : State) : (mergeEntry n m s).cycs = s.cycs := by rw [mergeEntry_only]
@[simp] theorem mergeEntry_xfs (n : U64) (m : Nat) (s : State) : (mergeEntry n m s).xfs = s.xfs := by rw [mergeEntry_only]
@[simp] theorem mergeEntry_seq (n : U64) (m : Nat) (s : State) : (mergeEntry n m s).seq = s.seq := by rw [mergeEntry_only]
@[simp] theorem mergeEntry_maxEvents (n : U64) (m : Nat) (s : State) : (mergeEntry n m s).maxEvents = s.maxEvents := by rw [mergeEntry_only]
@[simp] theorem mergeEntry_maxOutputEvents (n : U64) (m : Nat) (s : State) : (mergeEntry n m s).maxOutputEvents = s.maxOutputEvents := by rw [mergeEntry_only]
@[simp] theorem mergeEntry_maxWake (n : U64) (m : Nat) (s : State) : (mergeEntry n m s).maxWake = s.maxWake := by rw [mergeEntry_only]
@[simp] theorem mergeEntry_xform (n : U64) (m : Nat) (s : State) : (mergeEntry n m s).xform = s.xform := by rw [mergeEntry_only]
@[simp] theorem mergeEntry_port (n : U64) (m : Nat) (s : State) : (mergeEntry n m s).port = s.port := by rw [mergeEntry_only]
@[simp] theorem mergeEntry_resp (n : U64) (m : Nat) (s : State) : (mergeEntry n m s).resp = s.resp := by rw [mergeEntry_only]

@[simp] theorem mergePhase_status (n : U64) (s : State) : (mergePhase n s).status = s.status := by rw [mergePhase_only]
@[simp] theorem mergePhase_wakeIe (n : U64) (s : State) : (mergePhase n s).wakeIe = s.wakeIe := by rw [mergePhase_only]
@[simp] theorem mergePhase_now (n : U64) (s : State) : (mergePhase n s).now = s.now := by rw [mergePhase_only]
@[simp] theorem mergePhase_stepCnt (n : U64) (s : State) : (mergePhase n s).stepCnt = s.stepCnt := by rw [mergePhase_only]
@[simp] theorem mergePhase_evtId (n : U64) (s : State) : (mergePhase n s).evtId = s.evtId := by rw [mergePhase_only]
@[simp] theorem mergePhase_evtValue (n : U64) (s : State) : (mergePhase n s).evtValue = s.evtValue := by rw [mergePhase_only]
@[simp] theorem mergePhase_evtStatus (n : U64) (s : State) : (mergePhase n s).evtStatus = s.evtStatus := by rw [mergePhase_only]
@[simp] theorem mergePhase_evtTs (n : U64) (s : State) : (mergePhase n s).evtTs = s.evtTs := by rw [mergePhase_only]
@[simp] theorem mergePhase_fifo (n : U64) (s : State) : (mergePhase n s).fifo = s.fifo := by rw [mergePhase_only]
@[simp] theorem mergePhase_outs (n : U64) (s : State) : (mergePhase n s).outs = s.outs := by rw [mergePhase_only]
@[simp] theorem mergePhase_wakes (n : U64) (s : State) : (mergePhase n s).wakes = s.wakes := by rw [mergePhase_only]
@[simp] theorem mergePhase_mrgs (n : U64) (s : State) : (mergePhase n s).mrgs = s.mrgs := by rw [mergePhase_only]
@[simp] theorem mergePhase_mons (n : U64) (s : State) : (mergePhase n s).mons = s.mons := by rw [mergePhase_only]
@[simp] theorem mergePhase_cycs (n : U64) (s : State) : (mergePhase n s).cycs = s.cycs := by rw [mergePhase_only]
@[simp] theorem mergePhase_xfs (n : U64) (s : State) : (mergePhase n s).xfs = s.xfs := by rw [mergePhase_only]
@[simp] theorem mergePhase_seq (n : U64) (s : State) : (mergePhase n s).seq = s.seq := by rw [mergePhase_only]
@[simp] theorem mergePhase_maxEvents (n : U64) (s : State) : (mergePhase n s).maxEvents = s.maxEvents := by rw [mergePhase_only]
@[simp] theorem mergePhase_maxOutputEvents (n : U64) (s : State) : (mergePhase n s).maxOutputEvents = s.maxOutputEvents := by rw [mergePhase_only]
@[simp] theorem mergePhase_maxWake (n : U64) (s : State) : (mergePhase n s).maxWake = s.maxWake := by rw [mergePhase_only]
@[simp] theorem mergePhase_xform (n : U64) (s : State) : (mergePhase n s).xform = s.xform := by rw [mergePhase_only]
@[simp] theorem mergePhase_port (n : U64) (s : State) : (mergePhase n s).port = s.port := by rw [mergePhase_only]
@[simp] theorem mergePhase_resp (n : U64) (s : State) : (mergePhase n s).resp = s.resp := by rw [mergePhase_only]

@[simp] theorem monitorPhase_wakeIe (n : U64) (s : State) : (monitorPhase n s).wakeIe = s.wakeIe := by rw [monitorPhase_only]
@[simp] theorem monitorPhase_now (n : U64) (s : State) : (monitorPhase n s).now = s.now := by rw [monitorPhase_only]
@[simp] theorem monitorPhase_stepCnt (n : U64) (s : State) : (monitorPhase n s).stepCnt = s.stepCnt := by rw [monitorPhase_only]
@[simp] theorem monitorPhase_evtId (n : U64) (s : State) : (monitorPhase n s).evtId = s.evtId := by rw [monitorPhase_only]
@[simp] theorem monitorPhase_evtValue (n : U64) (s : State) : (monitorPhase n s).evtValue = s.evtValue := by rw [monitorPhase_only]
@[simp] theorem monitorPhase_evtStatus (n : U64) (s : State) : (monitorPhase n s).evtStatus = s.evtStatus := by rw [monitorPhase_only]
@[simp] theorem monitorPhase_evtTs (n : U64) (s : State) : (monitorPhase n s).evtTs = s.evtTs := by rw [monitorPhase_only]
@[simp] theorem monitorPhase_fifo (n : U64) (s : State) : (monitorPhase n s).fifo = s.fifo := by rw [monitorPhase_only]
@[simp] theorem monitorPhase_outs (n : U64) (s : State) : (monitorPhase n s).outs = s.outs := by rw [monitorPhase_only]
@[simp] theorem monitorPhase_mrgs (n : U64) (s : State) : (monitorPhase n s).mrgs = s.mrgs := by rw [monitorPhase_only]
@[simp] theorem monitorPhase_cycs (n : U64) (s : State) : (monitorPhase n s).cycs = s.cycs := by rw [monitorPhase_only]
@[simp] theorem monitorPhase_seq (n : U64) (s : State) : (monitorPhase n s).seq = s.seq := by rw [monitorPhase_only]
@[simp] theorem monitorPhase_maxEvents (n : U64) (s : State) : (monitorPhase n s).maxEvents = s.maxEvents := by rw [monitorPhase_only]
@[simp] theorem monitorPhase_maxOutputEvents (n : U64) (s : State) : (monitorPhase n s).maxOutputEvents = s.maxOutputEvents := by rw [monitorPhase_only]
@[simp] theorem monitorPhase_maxWake (n : U64) (s : State) : (monitorPhase n s).maxWake = s.maxWake := by rw [monitorPhase_only]
@[simp] theorem monitorPhase_xform (n : U64) (s : State) : (monitorPhase n s).xform = s.xform := by rw [monitorPhase_only]
@[simp] theorem monitorPhase_port (n : U64) (s : State) : (monitorPhase n s).port = s.port := by rw [monitorPhase_only]
@[simp] theorem monitorPhase_resp (n : U64) (s : State) : (monitorPhase n s).resp = s.resp := by rw [monitorPhase_only]

@[simp] theorem transformPhase_status (n : U64) (s : State) : (transformPhase n s).status = s.status := by rw [transformPhase_only]
@[simp] theorem transformPhase_wakeIe (n : U64) (s : State) : (transformPhase n s).wakeIe = s.wakeIe := by rw [transformPhase_only]
@[simp] theorem transformPhase_now (n : U64) (s : State) : (transformPhase n s).now = s.now := by rw [transformPhase_only]
@[simp] theorem transformPhase_stepCnt (n : U64) (s : State) : (transformPhase n s).stepCnt = s.stepCnt := by rw [transformPhase_only]
@[simp] theorem transformPhase_evtId (n : U64) (s : State) : (transformPhase n s).evtId = s.evtId := by rw [transformPhase_only]
@[simp] theorem transformPhase_evtValue (n : U64) (s : State) : (transformPhase n s).evtValue = s.evtValue := by rw [transformPhase_only]
@[simp] theorem transformPhase_evtStatus (n : U64) (s : State) : (transformPhase n s).evtStatus = s.evtStatus := by rw [transformPhase_only]
@[simp] theorem transformPhase_evtTs (n : U64) (s : State) : (transformPhase n s).evtTs = s.evtTs := by rw [transformPhase_only]
@[simp] theorem transformPhase_fifo (n : U64) (s : State) : (transformPhase n s).fifo = s.fifo := by rw [transformPhase_only]
@[simp] theorem transformPhase_outs (n : U64) (s : State) : (transformPhase n s).outs = s.outs := by rw [transformPhase_only]
@[simp] theorem transformPhase_wakes (n : U64) (s : State) : (transformPhase n s).wakes = s.wakes := by rw [transformPhase_only]
@[simp] theorem transformPhase_mrgs (n : U64) (s : State) : (transformPhase n s).mrgs = s.mrgs := by rw [transformPhase_only]
@[simp] theorem transformPhase_mons (n : U64) (s : State) : (transformPhase n s).mons = s.mons := by rw [transformPhase_only]
@[simp] theorem transformPhase_cycs (n : U64) (s : State) : (transformPhase n s).cycs = s.cycs := by rw [transformPhase_only]
@[simp] theorem transformPhase_xfs (n : U64) (s : State) : (transformPhase n s).xfs = s.xfs := by rw [transformPhase_only]
@[simp] theorem transformPhase_seq (n : U64) (s : State) : (transformPhase n s).seq = s.seq := by rw [transformPhase_only]
@[simp] theorem transformPhase_maxEvents (n : U64) (s : State) : (transformPhase n s).maxEvents = s.maxEvents := by rw [transformPhase_only]
@[simp] theorem transformPhase_maxOutputEvents (n : U64) (s : State) : (transformPhase n s).maxOutputEvents = s.maxOutputEvents := by rw [transformPhase_only]
@[simp] theorem transformPhase_maxWake (n : U64) (s : State) : (transformPhase n s).maxWake = s.maxWake := by rw [transformPhase_only]
@[simp] theorem transformPhase_xform (n : U64) (s : State) : (transformPhase n s).xform = s.xform := by rw [transformPhase_only]
@[simp] theorem transformPhase_port (n : U64) (s : State) : (transformPhase n s).port = s.port := by rw [transformPhase_only]
@[simp] theorem transformPhase_resp (n : U64) (s : State) : (transformPhase n s).resp = s.resp := by rw [transformPhase_only]

@[simp] theorem cyclicPhase_status (n : U64) (s : State) : (cyclicPhase n s).status = s.status := by rw [cyclicPhase_only]
@[simp] theorem cyclicPhase_wakeIe (n : U64) (s : State) : (cyclicPhase n s).wakeIe = s.wakeIe := by rw [cyclicPhase_only]
@[simp] theorem cyclicPhase_now (n : U64) (s : State) : (cyclicPhase n s).now = s.now := by rw [cyclicPhase_only]
@[simp] theorem cyclicPhase_stepCnt (n : U64) (s : State) : (cyclicPhase n s).stepCnt = s.stepCnt := by rw [cyclicPhase_only]
@[simp] theorem cyclicPhase_evtId (n : U64) (s : State) : (cyclicPhase n s).evtId = s.evtId := by rw [cyclicPhase_only]
@[simp] theorem cyclicPhase_evtValue (n : U64) (s : State) : (cyclicPhase n s).evtValue = s.evtValue := by rw [cyclicPhase_only]
@[simp] theorem cyclicPhase_evtStatus (n : U64) (s : State) : (cyclicPhase n s).evtStatus = s.evtStatus := by rw [cyclicPhase_only]
@[simp] theorem cyclicPhase_evtTs (n : U64) (s : State) : (cyclicPhase n s).evtTs = s.evtTs := by rw [cyclicPhase_only]
@[simp] theorem cyclicPhase_fifo (n : U64) (s : State) : (cyclicPhase n s).fifo = s.fifo := by rw [cyclicPhase_only]
@[simp] theorem cyclicPhase_wakes (n : U64) (s : State) : (cyclicPhase n s).wakes = s.wakes := by rw [cyclicPhase_only]
@[simp] theorem cyclicPhase_sigs (n : U64) (s : State) : (cyclicPhase n s).sigs = s.sigs := by rw [cyclicPhase_only]
@[simp] theorem cyclicPhase_mrgs (n : U64) (s : State) : (cyclicPhase n s).mrgs = s.mrgs := by rw [cyclicPhase_only]
@[simp] theorem cyclicPhase_mons (n : U64) (s : State) : (cyclicPhase n s).mons = s.mons := by rw [cyclicPhase_only]
@[simp] theorem cyclicPhase_xfs (n : U64) (s : State) : (cyclicPhase n s).xfs = s.xfs := by rw [cyclicPhase_only]
@[simp] theorem cyclicPhase_seq (n : U64) (s : State) : (cyclicPhase n s).seq = s.seq := by rw [cyclicPhase_only]
@[simp] theorem cyclicPhase_maxEvents (n : U64) (s : State) : (cyclicPhase n s).maxEvents = s.maxEvents := by rw [cyclicPhase_only]
@[simp] theorem cyclicPhase_maxOutputEvents (n : U64) (s : State) : (cyclicPhase n s).maxOutputEvents = s.maxOutputEvents := by rw [cyclicPhase_only]
@[simp] theorem cyclicPhase_maxWake (n : U64) (s : State) : (cyclicPhase n s).maxWake = s.maxWake := by rw [cyclicPhase_only]
@[simp] theorem cyclicPhase_xform (n : U64) (s : State) : (cyclicPhase n s).xform = s.xform := by rw [cyclicPhase_only]
@[simp] theorem cyclicPhase_port (n : U64) (s : State) : (cyclicPhase n s).port = s.port := by rw [cyclicPhase_only]
@[simp] theorem cyclicPhase_resp (n : U64) (s : State) : (cyclicPhase n s).resp = s.resp := by rw [cyclicPhase_only]

@[simp] theorem epilogue_status (s : State) : (epilogue s).status = s.status := by rw [epilogue_only]
@[simp] theorem epilogue_wakeIe (s : State) : (epilogue s).wakeIe = s.wakeIe := by rw [epilogue_only]
@[simp] theorem epilogue_now (s : State) : (epilogue s).now = s.now := by rw [epilogue_only]
@[simp] theorem epilogue_evtId (s : State) : (epilogue s).evtId = s.evtId := by rw [epilogue_only]
@[simp] theorem epilogue_evtValue (s : State) : (epilogue s).evtValue = s.evtValue := by rw [epilogue_only]
@[simp] theorem epilogue_evtStatus (s : State) : (epilogue s).evtStatus = s.evtStatus := by rw [epilogue_only]
@[simp] theorem epilogue_evtTs (s : State) : (epilogue s).evtTs = s.evtTs := by rw [epilogue_only]
@[simp] theorem epilogue_fifo (s : State) : (epilogue s).fifo = s.fifo := by rw [epilogue_only]
@[simp] theorem epilogue_outs (s : State) : (epilogue s).outs = s.outs := by rw [epilogue_only]
@[simp] theorem epilogue_wakes (s : State) : (epilogue s).wakes = s.wakes := by rw [epilogue_only]
@[simp] theorem epilogue_sigs (s : State) : (epilogue s).sigs = s.sigs := by rw [epilogue_only]
@[simp] theorem epilogue_mrgs (s : State) : (epilogue s).mrgs = s.mrgs := by rw [epilogue_only]
@[simp] theorem epilogue_mons (s : State) : (epilogue s).mons = s.mons := by rw [epilogue_only]
@[simp] theorem epilogue_cycs (s : State) : (epilogue s).cycs = s.cycs := by rw [epilogue_only]
@[simp] theorem epilogue_xfs (s : State) : (epilogue s).xfs = s.xfs := by rw [epilogue_only]
@[simp] theorem epilogue_seq (s : State) : (epilogue s).seq = s.seq := by rw [epilogue_only]
@[simp] theorem epilogue_maxEvents (s : State) : (epilogue s).maxEvents = s.maxEvents := by rw [epilogue_only]
@[simp] theorem epilogue_maxOutputEvents (s : State) : (epilogue s).maxOutputEvents = s.maxOutputEvents := by rw [epilogue_only]
@[simp] theorem epilogue_maxWake (s : State) : (epilogue s).maxWake = s.maxWake := by rw [epilogue_only]
@[simp] theorem epilogue_xform (s : State) : (epilogue s).xform = s.xform := by rw [epilogue_only]
@[simp] theorem epilogue_port (s : State) : (epilogue s).port = s.port := by rw [epilogue_only]
@[simp] theorem epilogue_resp (s : State) : (epilogue s).resp = s.resp := by rw [epilogue_only]

@[simp] theorem ingest_fifo (s : State) : (ingest s).fifo = [] := by rw [ingest_only]

@[simp] theorem prologue_outs (s : State) : (prologue s).outs = [] := rfl

@[simp] theorem prologue_wakes (s : State) : (prologue s).wakes = [] := rfl

@[simp] theorem epilogue_stepCnt (s : State) : (epilogue s).stepCnt = s.stepCnt + 1#32 := rfl

/-! ### The tables keep their lengths -/

theorem fastPath_sigs (e : Event) (s : State) : (fastPath e s).sigs = s.sigs := by rw [fastPath_only]

@[simp] theorem ingestEvent_sigs_length (s : State) (e : Event) : (ingestEvent s e).sigs.length = s.sigs.length := by
  unfold ingestEvent; split
  · rw [fastPath_sigs]; simp [ingestOne]
  · rfl

@[simp] theorem ingest_sigs_length (s : State) : (ingest s).sigs.length = s.sigs.length := by
  unfold ingest; dsimp only
  generalize s.fifo = es
  induction es generalizing s with
  | nil => rfl
  | cons e es ih => simp only [List.foldl_cons]; rw [ih, ingestEvent_sigs_length]

@[simp] theorem prologue_sigs_length (s : State) : (prologue s).sigs.length = s.sigs.length := by simp [prologue]

@[simp] theorem staleness_sigs_length (n : U64) (s : State) : (staleness n s).sigs.length = s.sigs.length := by
  simp [staleness]

@[simp] theorem mergePass_sigs_length (vote : List Int → Nat → Int × Status) (en : Bool) (nin : BitVec 4) (n : U64)
    (m : Nat) (s : State) : (mergePass vote en nin n m s).sigs.length = s.sigs.length := by
  unfold mergePass mergeVote; dsimp only
  repeat' split
  all_goals simp [mergeEmpty, mergeWrite]

@[simp] theorem mergeEntry_sigs_length (n : U64) (m : Nat) (s : State) :
    (mergeEntry n m s).sigs.length = s.sigs.length := by
  unfold mergeEntry; repeat' split
  all_goals simp

@[simp] theorem mergePhase_sigs_length (n : U64) (s : State) : (mergePhase n s).sigs.length = s.sigs.length :=
  ascending_same (fun t => t.sigs.length) _ _ _ fun _ _ _ => mergeEntry_sigs_length ..

/-- The three tables a monitor may write keep their lengths. -/
theorem monitorEntry_lengths (n : U64) (i : Nat) (s : State) :
    (monitorEntry n i s).sigs.length = s.sigs.length ∧ (monitorEntry n i s).mons.length = s.mons.length ∧
    (monitorEntry n i s).xfs.length = s.xfs.length := by
  unfold monitorEntry monitorPass; dsimp only
  split
  · rw [limpFsm_only]; unfold limpFsm; dsimp only
    rw [faultMemory_only, cycleWake_only]; unfold faultMemory faultOutput; dsimp only
    repeat' split
    all_goals simp
  · simp

@[simp] theorem monitorPhase_sigs_length (n : U64) (s : State) : (monitorPhase n s).sigs.length = s.sigs.length :=
  ascending_same (fun t => t.sigs.length) _ _ _ fun i t _ => (monitorEntry_lengths n i t).1

@[simp] theorem monitorPhase_mons_length (n : U64) (s : State) : (monitorPhase n s).mons.length = s.mons.length :=
  ascending_same (fun t => t.mons.length) _ _ _ fun i t _ => (monitorEntry_lengths n i t).2.1

@[simp] theorem monitorPhase_xfs_length (n : U64) (s : State) : (monitorPhase n s).xfs.length = s.xfs.length :=
  ascending_same (fun t => t.xfs.length) _ _ _ fun i t _ => (monitorEntry_lengths n i t).2.2

@[simp] theorem transformPhase_sigs_length (n : U64) (s : State) : (transformPhase n s).sigs.length = s.sigs.length := by
  obtain ⟨-, h⟩ | ⟨k, -, h⟩ := transformPhase_cases n s <;> simp [h, xformSupplied]

@[simp] theorem cyclicPhase_cycs_length (n : U64) (s : State) : (cyclicPhase n s).cycs.length = s.cycs.length :=
  ascending_same (fun t => t.cycs.length) _ _ _ fun i t _ => by
    unfold cyclicEntry fireCyclic; split
    · rw [appendOut_only]; simp
    · rfl

end Sys2Proof.Machine
end

