-- ==== Sys2Proof/Laws/Ingest.lean ====
section
/-! SUPPORT. What the events of Phase 1 write of a signal (41_ingestion.md R174, R175). -/

namespace Sys2Proof.Machine

/-- An event in range writes its own signal only (41_ingestion.md R175). -/
theorem ingestEvent_at (s : State) (e : Event) (h : e.id.toNat < s.sigs.length) (i : Nat) :
    sigAt (ingestEvent s e) i = if i = e.id.toNat then ingestSignal e (sigAt s i) else sigAt s i := by
  unfold ingestEvent; rw [if_pos (by simpa [sigInRange])]
  rw [sigAt_congr (fastPath_sigs ..), ingestOne, sigAt_setSig]
  by_cases hi : i = e.id.toNat
  · subst hi; simp [h]
  · simp [hi, Ne.symm hi]

/-- Events of other signals leave a signal as it was (41_ingestion.md R173). -/
theorem fold_sig (es : List Event) (s : State) (i : Nat) (h : ∀ e ∈ es, e.id.toNat ≠ i) :
    sigAt (es.foldl ingestEvent s) i = sigAt s i ∧ (es.foldl ingestEvent s).sigs.length = s.sigs.length := by
  induction es generalizing s with
  | nil => exact ⟨rfl, rfl⟩
  | cons e es ih =>
    rw [List.foldl_cons]
    obtain ⟨h1, h2⟩ := ih (ingestEvent s e) fun e' he => h e' (by simp [he])
    refine ⟨h1.trans ?_, by rw [h2]; simp⟩
    unfold ingestEvent; split
    · rw [sigAt_congr (fastPath_sigs ..)]; exact sigAt_setSig_ne _ _ _ _ (h e (by simp))
    · rfl

end Sys2Proof.Machine
end

