-- ==== Sys2Proof/Laws/Words.lean ====
section
/-! SUPPORT. A write of one named word: what the word reads afterwards, and that no other word changes
(40_host_interface.md R132). -/

namespace Sys2Proof.Machine

/-! ### 64-bit words -/

/-- The low word of a concatenation. -/
theorem loWord_append (hi lo : Word) : loWord (hi ++ lo) = lo := by
  ext i h
  simp only [loWord, BitVec.getElem_extractLsb', BitVec.getLsbD_append, Nat.zero_add, if_pos h]
  exact BitVec.getLsbD_eq_getElem h

/-- The high word of a concatenation. -/
theorem hiWord_append (hi lo : Word) : hiWord (hi ++ lo) = hi := by
  ext i h
  have h1 : ¬ 32 + i < 32 := by omega
  have h2 : 32 + i - 32 = i := by omega
  simp only [hiWord, BitVec.getElem_extractLsb', BitVec.getLsbD_append, if_neg h1, h2]
  exact BitVec.getLsbD_eq_getElem h

@[simp] theorem loWord_withLoWord (v : U64) (w : Word) : loWord (withLoWord v w) = w := loWord_append ..
@[simp] theorem hiWord_withLoWord (v : U64) (w : Word) : hiWord (withLoWord v w) = hiWord v := hiWord_append ..
@[simp] theorem loWord_withHiWord (v : U64) (w : Word) : loWord (withHiWord v w) = loWord v := loWord_append ..
@[simp] theorem hiWord_withHiWord (v : U64) (w : Word) : hiWord (withHiWord v w) = w := hiWord_append ..

/-! ### A write of one word leaves the other words of its entry -/

theorem readSig_writeSig_ne (g : Signal) (w : Word) {f f' : SigField} (h : f ≠ f') :
    readSig (writeSig g w f) f' = readSig g f' := by
  cases f <;> cases f' <;> first | exact absurd rfl h | rfl | simp [readSig, writeSig]

theorem readMrg_writeMrg_ne (e : MergeEntry) (w : Word) {f f' : MrgField} (h : f ≠ f') :
    readMrg (writeMrg e w f) f' = readMrg e f' := by
  cases f <;> cases f' <;> first | exact absurd rfl h | rfl

theorem readMon_writeMon_ne (k : Monitor) (w : Word) {f f' : MonField} (h : f ≠ f') :
    readMon (writeMon k w f) f' = readMon k f' := by
  cases f <;> cases f' <;> first | exact absurd rfl h | rfl

theorem readCyc_writeCyc_ne (e : CyclicEntry) (w : Word) {f f' : CycField} (h : f ≠ f') :
    readCyc (writeCyc e w f) f' = readCyc e f' := by
  cases f <;> cases f' <;> first | exact absurd rfl h | rfl | simp [readCyc, writeCyc]

theorem readXf_writeXf_ne (x : Xform) (w : Word) {f f' : XfField} (h : f ≠ f') :
    readXf (writeXf x w f) f' = readXf x f' := by
  cases f <;> cases f' <;> first | exact absurd rfl h | rfl

/-! ### A write of one word leaves every other word -/

@[simp] theorem writeReg_params (s : State) (w : Word) (r : Reg) : (writeReg s w r).params = s.params := by
  cases r <;> simp [writeReg, State.params]

theorem readReg_congr {s t : State} (h : t = { s with resp := t.resp }) (r : Reg) : readReg t r = readReg s r := by
  rw [h]; cases r <;> rfl

theorem sig_frame (s : State) (w : Word) (i j : Nat) (f f' : SigField) (h : Reg.sig i f ≠ .sig j f') :
    readSig (sigAt (setSig s i (writeSig (sigAt s i) w f)) j) f' = readSig (sigAt s j) f' := by
  rw [sigAt_setSig]; split
  · rename_i hij; obtain ⟨rfl, -⟩ := hij
    exact readSig_writeSig_ne _ _ fun e => h (by rw [e])
  · rfl

theorem mrg_frame (s : State) (w : Word) (i j : Nat) (f f' : MrgField) (h : Reg.mrg i f ≠ .mrg j f') :
    readMrg (mrgAt (setMrg s i (writeMrg (mrgAt s i) w f)) j) f' = readMrg (mrgAt s j) f' := by
  rw [mrgAt_setMrg]; split
  · rename_i hij; obtain ⟨rfl, -⟩ := hij
    exact readMrg_writeMrg_ne _ _ fun e => h (by rw [e])
  · rfl

theorem mon_frame (s : State) (w : Word) (i j : Nat) (f f' : MonField) (h : Reg.mon i f ≠ .mon j f') :
    readMon (monAt (setMon s i (writeMon (monAt s i) w f)) j) f' = readMon (monAt s j) f' := by
  rw [monAt_setMon]; split
  · rename_i hij; obtain ⟨rfl, -⟩ := hij
    exact readMon_writeMon_ne _ _ fun e => h (by rw [e])
  · rfl

theorem cyc_frame (s : State) (w : Word) (i j : Nat) (f f' : CycField) (h : Reg.cyc i f ≠ .cyc j f') :
    readCyc (cycAt (setCyc s i (writeCyc (cycAt s i) w f)) j) f' = readCyc (cycAt s j) f' := by
  rw [cycAt_setCyc]; split
  · rename_i hij; obtain ⟨rfl, -⟩ := hij
    exact readCyc_writeCyc_ne _ _ fun e => h (by rw [e])
  · rfl

theorem xf_frame (s : State) (w : Word) (i j : Nat) (f f' : XfField) (h : Reg.xf i f ≠ .xf j f') :
    readXf (xfAt (setXf s i (writeXf (xfAt s i) w f)) j) f' = readXf (xfAt s j) f' := by
  rw [xfAt_setXf]; split
  · rename_i hij; obtain ⟨rfl, -⟩ := hij
    exact readXf_writeXf_ne _ _ fun e => h (by rw [e])
  · rfl

/-- A register write leaves what every other named word reads (40_host_interface.md R132). -/
theorem readReg_writeReg_ne (s : State) (w : Word) {r r' : Reg} (h : r ≠ r') :
    readReg (writeReg s w r) r' = readReg s r' := by
  cases r with
  | sig i f => cases r' with
    | sig j f' => exact sig_frame s w i j f f' h
    | capsSig | capsTbl => simp [readReg]
    | _ => rfl
  | mrg i f => cases r' with
    | mrg j f' => exact mrg_frame s w i j f f' h
    | capsSig | capsTbl => simp [readReg]
    | _ => rfl
  | mon i f => cases r' with
    | mon j f' => exact mon_frame s w i j f f' h
    | capsSig | capsTbl => simp [readReg]
    | _ => rfl
  | cyc i f => cases r' with
    | cyc j f' => exact cyc_frame s w i j f f' h
    | capsSig | capsTbl => simp [readReg]
    | _ => rfl
  | xf i f => cases r' with
    | xf j f' => exact xf_frame s w i j f f' h
    | capsSig | capsTbl => simp [readReg]
    | _ => rfl
  | _ => cases r' <;> first | exact absurd rfl h | rfl | simp [readReg, writeReg]

/-! ### A written word of plain fields reads back its RW bits -/

theorem getLsbD_idWord (x : SigId) (i : Nat) : (idWord x).getLsbD i = (decide (i < 16) && x.getLsbD i) := by
  simp only [idWord, BitVec.getLsbD_append]
  by_cases h : i < 16 <;> simp [h]

theorem idWord_idField (w : Word) : idWord (idField w) = w &&& 0x0000FFFF#32 := by
  ext i hi
  rw [← BitVec.getLsbD_eq_getElem, getLsbD_idWord]
  interval_cases i <;> simp [idField]

theorem byteWord_byteField (w : Word) : byteWord (byteField w) = w &&& 0x000000FF#32 := by
  ext i hi
  rw [← BitVec.getLsbD_eq_getElem]
  simp only [byteWord, BitVec.getLsbD_append]
  interval_cases i <;> simp [byteField]

theorem bitWord_bit (w : Word) : bitWord (w.getLsbD 0) = w &&& 0x00000001#32 := by
  ext i hi
  rw [← BitVec.getLsbD_eq_getElem]
  simp only [bitWord, BitVec.getLsbD_append]
  interval_cases i <;> simp

theorem xfCtrlWord_written (x : Xform) (w : Word) : xfCtrlWord (writeXf x w .ctrl) = w &&& 0x00000007#32 := by
  ext i hi
  rw [← BitVec.getLsbD_eq_getElem]
  simp only [xfCtrlWord, writeXf, BitVec.getLsbD_append]
  interval_cases i <;> simp

theorem monCtrlWord_written (w : Word) : monCtrlWord (monCtrlOfWord w) = w &&& 0x00000F3F#32 := by
  ext i hi
  rw [← BitVec.getLsbD_eq_getElem]
  simp only [monCtrlWord, monCtrlOfWord, BitVec.getLsbD_append]
  interval_cases i <;> simp

theorem and_allOnes (w : Word) : w &&& 0xFFFFFFFF#32 = w := BitVec.and_allOnes

theorem readSig_writeSig (g : Signal) (w mask : Word) (i : Nat) (f : SigField) (h : rwMask (.sig i f) = some mask) :
    readSig (writeSig g w f) f = w &&& mask := by
  cases f <;> cases h <;> simp [readSig, writeSig, and_allOnes]

theorem readMrg_writeMrg (e : MergeEntry) (w mask : Word) (i : Nat) (f : MrgField) (h : rwMask (.mrg i f) = some mask) :
    readMrg (writeMrg e w f) f = w &&& mask := by
  cases f <;> cases h <;> simp [readMrg, writeMrg, and_allOnes, idWord_idField]

theorem readMon_writeMon (k : Monitor) (w mask : Word) (i : Nat) (f : MonField) (h : rwMask (.mon i f) = some mask) :
    readMon (writeMon k w f) f = w &&& mask := by
  cases f <;> cases h <;> simp [readMon, writeMon, and_allOnes, idWord_idField, byteWord_byteField, monCtrlWord_written]

theorem readCyc_writeCyc (e : CyclicEntry) (w mask : Word) (i : Nat) (f : CycField) (h :
    rwMask (.cyc i f) = some mask) :
    readCyc (writeCyc e w f) f = w &&& mask := by
  cases f <;> cases h <;> simp [readCyc, writeCyc, and_allOnes, idWord_idField]

theorem readXf_writeXf (x : Xform) (w mask : Word) (i : Nat) (f : XfField) (h : rwMask (.xf i f) = some mask) :
    readXf (writeXf x w f) f = w &&& mask := by
  cases f <;> cases h <;> first
    | exact xfCtrlWord_written x w
    | simp [readXf, writeXf, and_allOnes, idWord_idField]

/-! ### Reading and writing at an offset -/

theorem readWord_of {s : State} {a : Addr} {r : Reg} (h : regAt s.params a = some r) : readWord s a = readReg s r := by
  simp [readWord, h]

theorem writeWord_of {s : State} {a : Addr} {r : Reg} (w : Word) (h : regAt s.params a = some r) :
    writeWord s a w = writeReg s w r := by
  simp [writeWord, h]

@[simp] theorem writeWord_params (s : State) (a : Addr) (w : Word) : (writeWord s a w).params = s.params := by
  unfold writeWord; split <;> simp

@[simp] theorem readReg_respond (s : State) (x : BusResp) (r : Reg) : readReg (respond s x) r = readReg s r := by
  cases r <;> rfl

@[simp] theorem readWord_respond (s : State) (x : BusResp) (a : Addr) : readWord (respond s x) a = readWord s a := by
  simp [readWord]

/-- A named word of plain RW fields reads back the written bits (40_host_interface.md R132). -/
theorem readReg_writeReg {s : State} {r : Reg} {mask : Word} (w : Word) (hr : regExists s.params r = true)
    (hm : rwMask r = some mask) : readReg (writeReg s w r) r = w &&& mask := by
  cases r with
  | sig i f =>
    rw [regExists_sig] at hr
    simpa only [readReg, writeReg, sigAt_setSig_self _ _ _ hr] using readSig_writeSig _ w mask i f hm
  | mrg i f =>
    rw [regExists_mrg] at hr
    simpa only [readReg, writeReg, mrgAt_setMrg_self _ _ _ hr] using readMrg_writeMrg _ w mask i f hm
  | mon i f =>
    rw [regExists_mon] at hr
    simpa only [readReg, writeReg, monAt_setMon_self _ _ _ hr] using readMon_writeMon _ w mask i f hm
  | cyc i f =>
    rw [regExists_cyc] at hr
    simpa only [readReg, writeReg, cycAt_setCyc_self _ _ _ hr] using readCyc_writeCyc _ w mask i f hm
  | xf i f =>
    rw [regExists_xf] at hr
    simpa only [readReg, writeReg, xfAt_setXf_self _ _ _ hr] using readXf_writeXf _ w mask i f hm
  | irqEn => cases hm; exact bitWord_bit w
  | evtId => cases hm; exact idWord_idField w
  | evtValue | nowLo | nowHi | evtTsLo | evtTsHi => cases hm; simp [readReg, writeReg, and_allOnes]
  | _ => cases hm

/-- A write of a read-only word changes nothing (40_host_interface.md R132). -/
theorem writeReg_readOnly (s : State) (w : Word) {r : Reg} (h : readOnlyWord r = true) : writeReg s w r = s := by
  cases r with
  | mon i f => cases f <;> first | (cases h; done) | simp [writeReg, writeMon]
  | sig i f | mrg i f | cyc i f | xf i f => cases f <;> cases h
  | _ => first | rfl | cases h

/-- What no word shows is left by a register write (40_host_interface.md R132). -/
theorem writeReg_hidden (s : State) (w : Word) (r : Reg) :
    (writeReg s w r).fifo = s.fifo ∧ (writeReg s w r).outs = s.outs ∧ (writeReg s w r).wakes = s.wakes ∧
    (writeReg s w r).stepCnt = s.stepCnt ∧ (writeReg s w r).seq = s.seq ∧ (writeReg s w r).port = s.port ∧
    ∀ i, (sigAt (writeReg s w r) i).updated = (sigAt s i).updated := by
  cases r with
  | sig j f =>
    refine ⟨rfl, rfl, rfl, rfl, rfl, rfl, fun i => ?_⟩
    simp only [writeReg, sigAt_setSig]
    split
    · rename_i h; obtain ⟨rfl, -⟩ := h; cases f <;> rfl
    · rfl
  | _ => exact ⟨rfl, rfl, rfl, rfl, rfl, rfl, fun _ => rfl⟩

end Sys2Proof.Machine
end

