-- ==== Sys2Proof/Laws/Step.lean ====
section
/-! SUPPORT. What one step of the machine can do, said once, and that a step always has a next state
(40_host_interface.md R152). -/

namespace Sys2Proof.Machine

/-! ### The six moves -/

theorem step_reset {s : State} {rest : List PortEvent} (h : s.port = .powerOnReset :: rest) :
    step s = .next (powerOnReset { s with port := rest }) := by
  simp [step, fetch, h]

theorem step_transaction {s : State} {t : Txn} {rest : List PortEvent} (hs : s.seq = .idle)
    (h : s.port = .transaction t :: rest) : step s = exec (decodeTransaction t) { s with port := rest } := by
  simp [step, fetch, h, hs]

theorem step_quiet {s : State} (hs : s.seq = .idle) (h : s.port = []) : step s = .next s := by
  simp [step, fetch, h, hs]

theorem fetch_running {s : State} {p : Phase} {n : U64} (hs : s.seq = .running p n)
    (h : s.port.head? ≠ some .powerOnReset) : fetch s = fetchPhase p n s := by
  unfold fetch
  split
  · rename_i rest hp; simp [hp] at h
  · simp [hs]

theorem step_merge {s : State} {m : Nat} {n : U64} {e : MergeEntry} (hs : s.seq = .running (.merge m) n)
    (h : s.port.head? ≠ some .powerOnReset) (he : s.mrgs[m]? = some e) :
    step s = afterSelector (exec (decodeSelector (mrgCtrlWord e)) s) := by
  simp [step, fetch_running hs h, fetchPhase, he]

theorem step_noMerge {s : State} {m : Nat} {n : U64} (hs : s.seq = .running (.merge m) n)
    (h : s.port.head? ≠ some .powerOnReset) (he : s.mrgs[m]? = none) : step s = .next (advanceSeq s) := by
  simp [step, fetch_running hs h, fetchPhase, he]

theorem step_phase {s : State} {p : Phase} {n : U64} (hs : s.seq = .running p n)
    (h : s.port.head? ≠ some .powerOnReset) (hp : ∀ m, p ≠ .merge m) :
    step s = .next (advanceSeq (runPhase p n s)) := by
  cases p with
  | merge m => exact absurd rfl (hp m)
  | _ => simp [step, fetch_running hs h, fetchPhase]

/-- A step is one of six moves: a power-on reset, a transaction, nothing to do, a merge selector, the end of the merge
table, or a phase. -/
theorem step_cases (s : State) :
    (∃ rest, s.port = .powerOnReset :: rest ∧ step s = .next (powerOnReset { s with port := rest })) ∨
    (∃ t rest, s.seq = .idle ∧ s.port = .transaction t :: rest ∧
      step s = exec (decodeTransaction t) { s with port := rest }) ∨
    (s.seq = .idle ∧ s.port = [] ∧ step s = .next s) ∨
    (∃ m n e, s.seq = .running (.merge m) n ∧ s.port.head? ≠ some .powerOnReset ∧ s.mrgs[m]? = some e ∧
      step s = afterSelector (exec (decodeSelector (mrgCtrlWord e)) s)) ∨
    (∃ m n, s.seq = .running (.merge m) n ∧ s.port.head? ≠ some .powerOnReset ∧ s.mrgs[m]? = none ∧
      step s = .next (advanceSeq s)) ∨
    (∃ p n, s.seq = .running p n ∧ s.port.head? ≠ some .powerOnReset ∧ (∀ m, p ≠ .merge m) ∧
      step s = .next (advanceSeq (runPhase p n s))) := by
  by_cases hh : s.port.head? = some .powerOnReset
  · obtain ⟨rest, hp⟩ := List.head?_eq_some_iff.mp hh
    exact .inl ⟨rest, hp, step_reset hp⟩
  obtain hs | ⟨p, n, hs⟩ : s.seq = .idle ∨ ∃ p n, s.seq = .running p n := by cases s.seq <;> simp
  · obtain hp | ⟨t, rest, hp⟩ : s.port = [] ∨ ∃ t rest, s.port = .transaction t :: rest := by
      revert hh; rcases s.port with _ | ⟨_ | _, rest⟩ <;> simp
    · exact .inr (.inr (.inl ⟨hs, hp, step_quiet hs hp⟩))
    · exact .inr (.inl ⟨t, rest, hs, hp, step_transaction hs hp⟩)
  · by_cases hm : ∃ m, p = .merge m
    · obtain ⟨m, rfl⟩ := hm
      obtain he | ⟨e, he⟩ : s.mrgs[m]? = none ∨ ∃ e, s.mrgs[m]? = some e := by cases s.mrgs[m]? <;> simp
      · exact .inr (.inr (.inr (.inr (.inl ⟨m, n, hs, hh, he, step_noMerge hs hh he⟩))))
      · exact .inr (.inr (.inr (.inl ⟨m, n, e, hs, hh, he, step_merge hs hh he⟩)))
    · have hm' : ∀ m, p ≠ .merge m := fun m h => hm ⟨m, h⟩
      exact .inr (.inr (.inr (.inr (.inr ⟨p, n, hs, hh, hm', step_phase hs hh hm'⟩))))

/-! ### Every operation has a next state -/

/-- Every operation answers a next state (40_host_interface.md R152). -/
theorem exec_total (i : Instr) (s : State) : ∃ t, exec i s = .next t := by cases i <;> exact ⟨_, rfl⟩

/-- The sequencer's move writes its position only. -/
theorem advanceSeq_only (s : State) : advanceSeq s = { s with seq := (advanceSeq s).seq } := by
  unfold advanceSeq; repeat' split
  all_goals rfl

/-- A METHOD row writes the signal table only (43_merge_voter.md R200). -/
theorem atMergeEntry_only (vote : List Int → Nat → Int × Status) (en : Bool) (nin : BitVec 4) (s : State) :
    atMergeEntry (mergePass vote en nin) s = { s with sigs := (atMergeEntry (mergePass vote en nin) s).sigs } := by
  unfold atMergeEntry; split
  · exact mergePass_only ..
  · rfl

/-- A selector changes the signal table only, and not its length. -/
theorem exec_selector_only (w : Word) (s : State) :
    ∃ t, exec (decodeSelector w) s = .next t ∧ t = { s with sigs := t.sigs } ∧ t.sigs.length = s.sigs.length := by
  have key : ∀ (vote : List Int → Nat → Int × Status) (en : Bool) (nin : BitVec 4),
      ∃ t, Host.Outcome.next (φ := Fault) (ρ := Refusal) (atMergeEntry (mergePass vote en nin) s) = .next t ∧
        t = { s with sigs := t.sigs } ∧ t.sigs.length = s.sigs.length := fun vote en nin =>
    ⟨_, rfl, atMergeEntry_only vote en nin s, by unfold atMergeEntry; split <;> simp⟩
  unfold decodeSelector; dsimp only
  split
  iterate 5 exact key ..
  all_goals exact ⟨s, rfl, rfl, rfl⟩

/-! ### The capacities are constant (10_state.md R24 to R26) -/

theorem params_eq_of_lengths {s t : State} (h1 : t.sigs.length = s.sigs.length) (h2 : t.mrgs.length = s.mrgs.length)
    (h3 : t.mons.length = s.mons.length) (h4 : t.cycs.length = s.cycs.length) (h5 : t.xfs.length = s.xfs.length)
    (h6 : t.maxEvents = s.maxEvents) (h7 : t.maxOutputEvents = s.maxOutputEvents) (h8 : t.maxWake = s.maxWake)
    (h9 : t.xform = s.xform) : t.params = s.params := by simp [State.params, *]

@[simp] theorem runPhases_params (n : U64) (s : State) : (runPhases n s).params = s.params := by
  apply params_eq_of_lengths <;> simp [runPhases]

@[simp] theorem runPhase_params (p : Phase) (n : U64) (s : State) : (runPhase p n s).params = s.params := by
  cases p <;> apply params_eq_of_lengths <;> simp [runPhase]

@[simp] theorem advanceSeq_params (s : State) : (advanceSeq s).params = s.params := by rw [advanceSeq_only]; rfl

theorem mergePass_params (vote : List Int → Nat → Int × Status) (en : Bool) (nin : BitVec 4) (n : U64) (m : Nat)
    (s : State) : (mergePass vote en nin n m s).params = s.params := by
  apply params_eq_of_lengths <;> first | exact mergePass_sigs_length .. | rw [mergePass_only]

theorem atMergeEntry_params {f : U64 → Nat → State → State} (hf : ∀ n m s, (f n m s).params = s.params) (s : State) :
    (atMergeEntry f s).params = s.params := by
  unfold atMergeEntry; split
  · exact hf ..
  · rfl

/-- No operation changes the capacities. -/
theorem exec_params (i : Instr) (s t : State) (h : exec i s = .next t) : t.params = s.params := by
  cases i <;> cases h
  case step => exact runPhases_params s.now s
  case evtPush => simp only [params_respond, pushEvent]; split <;> rfl
  case init => simp
  case busWrite => simp
  all_goals first | rfl | exact atMergeEntry_params (mergePass_params _ _ _) s

end Sys2Proof.Machine
end

