-- ==== Sys2Proof/Laws/Merge.lean ====
section
/-! SUPPORT. The voting methods over a list of inputs, and what one merge entry can do (43_merge_voter.md). -/

namespace Sys2Proof.Machine

/-! ### Least, greatest, sorted, median -/

theorem sortInts_perm (v : List Int) : (sortInts v).Perm v := List.perm_insertionSort _ v

theorem sortInts_sorted (v : List Int) : (sortInts v).Pairwise (· ≤ ·) := List.pairwise_insertionSort _ v

theorem sortInts_length (v : List Int) : (sortInts v).length = v.length := (sortInts_perm v).length_eq

theorem listMin_spec {v : List Int} (h : v ≠ []) : listMin v ∈ v ∧ ∀ x ∈ v, listMin v ≤ x := by
  obtain ⟨a, ha⟩ : ∃ a, v.min? = some a := by
    cases hm : v.min? with
    | none => exact absurd (List.min?_eq_none_iff.mp hm) h
    | some a => exact ⟨a, rfl⟩
  have := List.min?_eq_some_iff.mp ha
  simpa [listMin, ha] using this

theorem listMax_spec {v : List Int} (h : v ≠ []) : listMax v ∈ v ∧ ∀ x ∈ v, x ≤ listMax v := by
  obtain ⟨a, ha⟩ : ∃ a, v.max? = some a := by
    cases hm : v.max? with
    | none => exact absurd (List.max?_eq_none_iff.mp hm) h
    | some a => exact ⟨a, rfl⟩
  have := List.max?_eq_some_iff.mp ha
  simpa [listMax, ha] using this

/-- The median of an odd number of values is the middle one; of an even number, the floor of the mean of the two middle
ones. -/
theorem medianOf_spec {v : List Int} (h : v ≠ []) :
    (v.length % 2 = 1 → (sortInts v)[(v.length - 1) / 2]? = some (medianOf v)) ∧
    (v.length % 2 = 0 → ∃ a b, (sortInts v)[v.length / 2 - 1]? = some a ∧ (sortInts v)[v.length / 2]? = some b ∧
      medianOf v = (a + b).fdiv 2) := by
  have hl := List.length_pos_iff.mpr h
  have hs := sortInts_length v
  refine ⟨fun ho => ?_, fun he => ?_⟩
  · unfold medianOf; simp only [ho, if_true]
    exact getElem?_of_getD 0 (by omega)
  · refine ⟨_, _, getElem?_of_getD 0 (by omega), getElem?_of_getD 0 (by omega), ?_⟩
    unfold medianOf; simp [he]

theorem fdiv_two (a : Int) : 2 * a.fdiv 2 ≤ a ∧ a ≤ 2 * a.fdiv 2 + 1 := by
  rw [Int.fdiv_eq_ediv_of_nonneg _ (by norm_num)]; omega

theorem sorted_mem {v : List Int} {i : Nat} {a : Int} (h : (sortInts v)[i]? = some a) : a ∈ v :=
  (sortInts_perm v).mem_iff.mp (List.mem_of_getElem? h)

theorem medianOf_between {v : List Int} (h : v ≠ []) : (∃ x ∈ v, x ≤ medianOf v) ∧ ∃ x ∈ v, medianOf v ≤ x := by
  obtain ⟨a, b⟩ := medianOf_spec h
  rcases Nat.mod_two_eq_zero_or_one v.length with hp | hp
  · obtain ⟨x, y, hx, hy, hm⟩ := b hp
    have hl := List.length_pos_iff.mpr h
    have hs := sortInts_length v
    have hxy : x ≤ y := by
      obtain ⟨i1, hx'⟩ := List.getElem?_eq_some_iff.mp hx
      obtain ⟨i2, hy'⟩ := List.getElem?_eq_some_iff.mp hy
      rw [← hx', ← hy']
      exact List.pairwise_iff_getElem.mp (sortInts_sorted v) _ _ i1 i2 (by omega)
    have := fdiv_two (x + y)
    exact ⟨⟨x, sorted_mem hx, by omega⟩, ⟨y, sorted_mem hy, by omega⟩⟩
  · have := sorted_mem (a hp)
    exact ⟨⟨_, this, le_refl _⟩, ⟨_, this, le_refl _⟩⟩

theorem nearMedian_eq (v : List Int) (tol : Nat) :
    nearMedian v tol =
      (v.filter fun x => decide (medianOf v - x ≤ (tol : Int) ∧ x - medianOf v ≤ (tol : Int))).length := by
  unfold nearMedian
  rw [List.countP_eq_length_filter]
  congr 1
  apply List.filter_congr
  intro x _
  congr 1
  apply propext; omega

/-! ### Average -/

theorem tdiv_spec (a : Int) (n : Nat) (hn : 0 < n) : (a - a.tdiv n * n).natAbs < n ∧ 0 ≤ (a - a.tdiv n * n) * a := by
  have h : a - a.tdiv n * n = a.tmod n := by rw [Int.tmod_def]; ring
  rw [h]
  refine ⟨?_, ?_⟩
  · rw [Int.natAbs_tmod]; exact Nat.mod_lt _ hn
  · rcases le_total 0 a with h0 | h0
    · exact mul_nonneg (Int.tmod_nonneg _ h0) h0
    · have : a.tmod n ≤ 0 := by
        have := Int.tmod_nonneg (n : Int) (a := -a) (by omega)
        rw [Int.neg_tmod] at this; omega
      exact mul_nonneg_of_nonpos_of_nonpos this h0

theorem sum_bounds (v : List Int) (a b : Int) (h : ∀ x ∈ v, a ≤ x ∧ x ≤ b) :
    a * v.length ≤ v.sum ∧ v.sum ≤ b * v.length := by
  induction v with
  | nil => simp
  | cons x xs ih =>
    obtain ⟨h1, h2⟩ := ih fun y hy => h y (by simp [hy])
    obtain ⟨h3, h4⟩ := h x (by simp)
    simp only [List.sum_cons, List.length_cons, Nat.cast_add, Nat.cast_one]
    constructor <;> linarith

/-! ### Permutations of the inputs -/

theorem listMin_perm {v w : List Int} (h : v.Perm w) : listMin v = listMin w := by
  by_cases hv : v = []
  · subst hv; rw [h.nil_eq]
  · have hw : w ≠ [] := by rintro rfl; exact hv h.eq_nil
    obtain ⟨a1, a2⟩ := listMin_spec hv
    obtain ⟨b1, b2⟩ := listMin_spec hw
    exact le_antisymm (a2 _ (h.mem_iff.mpr b1)) (b2 _ (h.mem_iff.mp a1))

theorem listMax_perm {v w : List Int} (h : v.Perm w) : listMax v = listMax w := by
  by_cases hv : v = []
  · subst hv; rw [h.nil_eq]
  · have hw : w ≠ [] := by rintro rfl; exact hv h.eq_nil
    obtain ⟨a1, a2⟩ := listMax_spec hv
    obtain ⟨b1, b2⟩ := listMax_spec hw
    exact le_antisymm (b2 _ (h.mem_iff.mp a1)) (a2 _ (h.mem_iff.mpr b1))

theorem sortInts_permEq {v w : List Int} (h : v.Perm w) : sortInts v = sortInts w :=
  (((sortInts_perm v).trans h).trans (sortInts_perm w).symm).eq_of_pairwise (fun _ _ _ _ h1 h2 => le_antisymm h1 h2)
    (sortInts_sorted v) (sortInts_sorted w)

theorem medianOf_perm {v w : List Int} (h : v.Perm w) : medianOf v = medianOf w := by
  simp only [medianOf, sortInts_permEq h, h.length_eq]

/-! ### One merge entry -/

theorem ofInt_toInt {r : Int} (h1 : -2 ^ 31 ≤ r) (h2 : r < 2 ^ 31) : (BitVec.ofInt 32 r).toInt = r := by
  rw [BitVec.toInt_ofInt]
  apply Int.bmod_eq_of_le <;> norm_num at * <;> omega

/-- A merge that is not skipped, at the entry the engine stands at, votes (43_merge_voter.md R200, R201). -/
theorem mergePass_at {s : State} {m : Nat} {n : U64} {e : MergeEntry} {nin : BitVec 4}
    (vote : List Int → Nat → Int × Status) (hs : s.seq = .running (.merge m) n) (he : s.mrgs[m]? = some e)
    (h1 : e.outId.toNat < s.sigs.length) (h2 : e.outId ∉ usedSlots nin e) :
    atMergeEntry (mergePass vote true nin) s = mergeVote vote nin e n s := by
  simp [atMergeEntry, hs, mergePass, he, mergeSkip, sigInRange, h1, h2]

/-- A vote over some valid input writes value, status, timestamp and `updated` (43_merge_voter.md R210). -/
theorem mergeVote_nonempty {s : State} {n : U64} {e : MergeEntry} {nin : BitVec 4}
    (vote : List Int → Nat → Int × Status) (h : validInputs s nin e ≠ []) :
    mergeVote vote nin e n s = setSig s e.outId.toNat { sigAt s e.outId.toNat with
      value := BitVec.ofInt 32 (vote (validInputs s nin e) e.tol.toNat).1
      status := tolOverride (vote (validInputs s nin e) e.tol.toNat).2 (validInputs s nin e) e.tol.toNat
      ts := n, updated := true } := by
  simp [mergeVote, h, mergeWrite]

/-- A vote with no valid input writes the status only (43_merge_voter.md R203). -/
theorem mergeVote_empty {s : State} {n : U64} {e : MergeEntry} {nin : BitVec 4}
    (vote : List Int → Nat → Int × Status) (h : validInputs s nin e = []) :
    mergeVote vote nin e n s = setSig s e.outId.toNat { sigAt s e.outId.toNat with status := .error } := by
  simp [mergeVote, h, mergeEmpty]

/-- What one merge entry can do: nothing, or one write of its output, by an entry that runs. -/
theorem mergeEntry_cases (n : U64) (m : Nat) (s : State) :
    mergeEntry n m s = s ∨ ∃ e g, s.mrgs[m]? = some e ∧ mergeRuns s e = true ∧
      g.thresh = (sigAt s e.outId.toNat).thresh ∧
      mergeEntry n m s = setSig s e.outId.toNat g := by
  unfold mergeEntry
  cases he : s.mrgs[m]? with
  | none => exact .inl rfl
  | some e =>
    simp only
    have key : ∀ vote, e.method.toNat ≤ 4 → mergePass vote e.en e.nin n m s = s ∨ ∃ e' g, some e = some e' ∧
      mergeRuns s e' = true ∧ g.thresh = (sigAt s e'.outId.toNat).thresh ∧
      mergePass vote e.en e.nin n m s = setSig s e'.outId.toNat g := by
      intro vote hm
      unfold mergePass
      rw [he]; simp only
      cases hsk : mergeSkip s e.en e.nin e with
      | true => exact .inl rfl
      | false =>
        refine .inr ⟨e, ?_⟩
        have hr : mergeRuns s e = true := by simp [mergeRuns, hsk, hm]
        simp only [Bool.false_eq_true, if_false]
        unfold mergeVote; dsimp only
        split
        · exact ⟨{ sigAt s e.outId.toNat with status := .error }, trivial, hr, rfl, rfl⟩
        · exact ⟨{ sigAt s e.outId.toNat with
            value := BitVec.ofInt 32 (vote (validInputs s e.nin e) e.tol.toNat).1
            status := tolOverride (vote (validInputs s e.nin e) e.tol.toNat).2 (validInputs s e.nin e) e.tol.toNat
            ts := n, updated := true }, trivial, hr, rfl, rfl⟩
    split <;> first | exact .inl rfl | (apply key; omega)

end Sys2Proof.Machine
end

