-- ==== Sys2Proof/Laws/Monitor.lean ====
section
/-! SUPPORT. Phase 4 entry by entry: the state before the limp-home machine runs, what the machine reads, and what one pass
writes of the monitor table and of the transform table (44_fault_monitor.md R241 to R254). -/

namespace Sys2Proof.Machine

/-- A valid monitor is an entry of the table: the entry after reset is not enabled (44_fault_monitor.md R240). -/
theorem monValid_lt {s : State} {i : Nat} (h : monValid s (monAt s i) = true) : i < s.mons.length := by
  by_contra hc
  have : monAt s i = Monitor.zero := by simp [monAt, List.getD_eq_getElem?_getD, Nat.le_of_not_lt hc]
  rw [this] at h; simp [monValid, Monitor.zero, MonCtrl.zero] at h

/-- Validity, spelled out (44_fault_monitor.md R240). -/
theorem monValid_iff (s : State) (k : Monitor) :
    monValid s k = true ↔
      k.ctrl.en = true ∧ k.watch.toNat < s.sigs.length ∧ k.fout.toNat < s.sigs.length ∧ k.fout ≠ k.watch := by
  simp [monValid, sigInRange, and_assoc]

/-- The state of a pass just before the limp-home machine (44_fault_monitor.md R246 to R248). -/
def beforeLimp (n : U64) (i : Nat) (s : State) : State :=
  faultMemory i (faultOf n s i) (cycleWake i (monAt s i) (faultOf n s i) (faultOutput n (monAt s i) (faultOf n s i) s))

theorem monitorPass_eq (n : U64) (i : Nat) (s : State) :
    monitorPass n i s = limpFsm n (faultOf n s i) i (beforeLimp n i s) := rfl

@[simp] theorem beforeLimp_mons (n : U64) (i : Nat) (s : State) :
    (beforeLimp n i s).mons = s.mons.set i { monAt s i with faultActive := faultOf n s i } := by
  unfold beforeLimp faultMemory
  rw [cycleWake_only, faultOutput_only]; rfl

@[simp] theorem beforeLimp_xfs (n : U64) (i : Nat) (s : State) : (beforeLimp n i s).xfs = s.xfs := by
  unfold beforeLimp faultMemory
  rw [cycleWake_only, faultOutput_only]; rfl

theorem monAt_beforeLimp {n : U64} {i : Nat} {s : State} (h : i < s.mons.length) :
    monAt (beforeLimp n i s) i = { monAt s i with faultActive := faultOf n s i } := by
  simp [monAt, h]

theorem xfAt_beforeLimp (n : U64) (i : Nat) (s : State) (t : Nat) : xfAt (beforeLimp n i s) t = xfAt s t := by
  simp [xfAt]

/-- The five cases of the limp-home machine of monitor `i` (44_fault_monitor.md R249 to R254). -/
theorem limpFsm_cases (n : U64) (f : Bool) (i : Nat) (s : State) :
    (limpRuns s (monAt s i) = false ∧ limpFsm n f i s = s) ∨
    (limpRuns s (monAt s i) = true ∧ (monAt s i).limpActive = false ∧ f = true ∧
      limpFsm n f i s =
        setXf (setMon s i { snapshot (monAt s i) (xfAt s (monAt s i).target.toNat) with
                              limpActive := true, fctMs := stepMs n })
          (monAt s i).target.toNat (limpOverride (monAt s i) (xfAt s (monAt s i).target.toNat))) ∨
    (limpRuns s (monAt s i) = true ∧ ((monAt s i).limpActive = false ∧ f = false ∨ (monAt s i).limpActive = true ∧ f = true) ∧
      limpFsm n f i s = setMon s i { monAt s i with fctMs := stepMs n }) ∨
    (limpRuns s (monAt s i) = true ∧ (monAt s i).limpActive = true ∧ f = false ∧ delayElapsed n (monAt s i) = true ∧
      limpFsm n f i s =
        setXf (setMon s i { monAt s i with limpActive := false, fctMs := stepMs n })
          (monAt s i).target.toNat (limpRestore (monAt s i) (xfAt s (monAt s i).target.toNat))) ∨
    (limpRuns s (monAt s i) = true ∧ (monAt s i).limpActive = true ∧ f = false ∧ delayElapsed n (monAt s i) = false ∧
      limpFsm n f i s = s) := by
  unfold limpFsm
  cases h1 : limpRuns s (monAt s i) <;> cases h2 : (monAt s i).limpActive <;> cases f <;>
    cases h3 : delayElapsed n (monAt s i) <;> simp_all

/-- The limp-home machine of monitor `i` writes no other monitor (44_fault_monitor.md R256). -/
theorem monAt_limpFsm_ne {n : U64} {f : Bool} {i j : Nat} (h : i ≠ j) (s : State) :
    monAt (limpFsm n f i s) j = monAt s j := by
  have hx : ∀ (u : State) (t : Nat) (x : Xform), monAt (setXf u t x) j = monAt u j := fun _ _ _ => rfl
  rcases limpFsm_cases n f i s with ⟨-, e⟩ | ⟨-, -, -, e⟩ | ⟨-, -, e⟩ | ⟨-, -, -, -, e⟩ | ⟨-, -, -, -, e⟩ <;>
    simp only [e, hx, monAt_setMon_ne _ _ _ _ h]

/-- A pass of monitor `i` writes no other monitor (44_fault_monitor.md R256). -/
theorem monAt_monitorPass_ne {n : U64} {i j : Nat} (h : i ≠ j) (s : State) :
    monAt (monitorPass n i s) j = monAt s j := by
  rw [monitorPass_eq, monAt_limpFsm_ne h]
  simp [monAt, List.getD_eq_getElem?_getD, h]

end Sys2Proof.Machine
end

