-- ==== Sys2Proof/Laws/PerInstr.lean ====
section
/-! SUPPORT. Which of the two encoded forms an operation takes (30_encoding.md R100), one lemma per operation. -/

namespace Sys2Proof.Laws.CodeKind

/-- The encoder gives a transaction exactly for the operations decoded from one (30_encoding.md R100). -/
def Statement (i : Instr) : Prop := (∃ t, encode i = .transaction t) ↔ i.isTransaction = true

end Sys2Proof.Laws.CodeKind

open Sys2Proof

theorem Sys2Proof.Laws.CodeKind.busErrorSize0 (w : Bool) (a : Addr) (d : Word) :
    Sys2Proof.Laws.CodeKind.Statement (.busErrorSize0 w a d) := ⟨fun _ => rfl, fun _ => ⟨_, rfl⟩⟩

theorem Sys2Proof.Laws.CodeKind.busErrorSize1 (w : Bool) (a : Addr) (d : Word) :
    Sys2Proof.Laws.CodeKind.Statement (.busErrorSize1 w a d) := ⟨fun _ => rfl, fun _ => ⟨_, rfl⟩⟩

theorem Sys2Proof.Laws.CodeKind.busErrorSize3 (w : Bool) (a : Addr) (d : Word) :
    Sys2Proof.Laws.CodeKind.Statement (.busErrorSize3 w a d) := ⟨fun _ => rfl, fun _ => ⟨_, rfl⟩⟩

theorem Sys2Proof.Laws.CodeKind.busErrorMisaligned1 (w : Bool) (a : Addr) (d : Word) :
    Sys2Proof.Laws.CodeKind.Statement (.busErrorMisaligned1 w a d) := ⟨fun _ => rfl, fun _ => ⟨_, rfl⟩⟩

theorem Sys2Proof.Laws.CodeKind.busErrorMisaligned2 (w : Bool) (a : Addr) (d : Word) :
    Sys2Proof.Laws.CodeKind.Statement (.busErrorMisaligned2 w a d) := ⟨fun _ => rfl, fun _ => ⟨_, rfl⟩⟩

theorem Sys2Proof.Laws.CodeKind.busErrorMisaligned3 (w : Bool) (a : Addr) (d : Word) :
    Sys2Proof.Laws.CodeKind.Statement (.busErrorMisaligned3 w a d) := ⟨fun _ => rfl, fun _ => ⟨_, rfl⟩⟩

theorem Sys2Proof.Laws.CodeKind.nop :
    Sys2Proof.Laws.CodeKind.Statement .nop := ⟨fun _ => rfl, fun _ => ⟨_, rfl⟩⟩

theorem Sys2Proof.Laws.CodeKind.step :
    Sys2Proof.Laws.CodeKind.Statement .step := ⟨fun _ => rfl, fun _ => ⟨_, rfl⟩⟩

theorem Sys2Proof.Laws.CodeKind.evtPush :
    Sys2Proof.Laws.CodeKind.Statement .evtPush := ⟨fun _ => rfl, fun _ => ⟨_, rfl⟩⟩

theorem Sys2Proof.Laws.CodeKind.evtFlush :
    Sys2Proof.Laws.CodeKind.Statement .evtFlush := ⟨fun _ => rfl, fun _ => ⟨_, rfl⟩⟩

theorem Sys2Proof.Laws.CodeKind.init :
    Sys2Proof.Laws.CodeKind.Statement .init := ⟨fun _ => rfl, fun _ => ⟨_, rfl⟩⟩

theorem Sys2Proof.Laws.CodeKind.cmdReserved (d : Word) :
    Sys2Proof.Laws.CodeKind.Statement (.cmdReserved d) := ⟨fun _ => rfl, fun _ => ⟨_, rfl⟩⟩

theorem Sys2Proof.Laws.CodeKind.statusW1c (d : Word) :
    Sys2Proof.Laws.CodeKind.Statement (.statusW1c d) := ⟨fun _ => rfl, fun _ => ⟨_, rfl⟩⟩

theorem Sys2Proof.Laws.CodeKind.busRead (a : Addr) (d : Word) :
    Sys2Proof.Laws.CodeKind.Statement (.busRead a d) := ⟨fun _ => rfl, fun _ => ⟨_, rfl⟩⟩

theorem Sys2Proof.Laws.CodeKind.busWrite (a : Addr) (d : Word) :
    Sys2Proof.Laws.CodeKind.Statement (.busWrite a d) := ⟨fun _ => rfl, fun _ => ⟨_, rfl⟩⟩

theorem Sys2Proof.Laws.CodeKind.methodMin (en : Bool) (nin : BitVec 4) :
    Sys2Proof.Laws.CodeKind.Statement (.methodMin en nin) := ⟨fun ⟨_, h⟩ => (by cases h), fun h => (by cases h)⟩

theorem Sys2Proof.Laws.CodeKind.methodMax (en : Bool) (nin : BitVec 4) :
    Sys2Proof.Laws.CodeKind.Statement (.methodMax en nin) := ⟨fun ⟨_, h⟩ => (by cases h), fun h => (by cases h)⟩

theorem Sys2Proof.Laws.CodeKind.methodAverage (en : Bool) (nin : BitVec 4) :
    Sys2Proof.Laws.CodeKind.Statement (.methodAverage en nin) := ⟨fun ⟨_, h⟩ => (by cases h), fun h => (by cases h)⟩

theorem Sys2Proof.Laws.CodeKind.methodMedian (en : Bool) (nin : BitVec 4) :
    Sys2Proof.Laws.CodeKind.Statement (.methodMedian en nin) := ⟨fun ⟨_, h⟩ => (by cases h), fun h => (by cases h)⟩

theorem Sys2Proof.Laws.CodeKind.methodMajority (en : Bool) (nin : BitVec 4) :
    Sys2Proof.Laws.CodeKind.Statement (.methodMajority en nin) := ⟨fun ⟨_, h⟩ => (by cases h), fun h => (by cases h)⟩

theorem Sys2Proof.Laws.CodeKind.methodReserved5 (en : Bool) (nin : BitVec 4) :
    Sys2Proof.Laws.CodeKind.Statement (.methodReserved5 en nin) := ⟨fun ⟨_, h⟩ => (by cases h), fun h => (by cases h)⟩

theorem Sys2Proof.Laws.CodeKind.methodReserved6 (en : Bool) (nin : BitVec 4) :
    Sys2Proof.Laws.CodeKind.Statement (.methodReserved6 en nin) := ⟨fun ⟨_, h⟩ => (by cases h), fun h => (by cases h)⟩

theorem Sys2Proof.Laws.CodeKind.methodReserved7 (en : Bool) (nin : BitVec 4) :
    Sys2Proof.Laws.CodeKind.Statement (.methodReserved7 en nin) := ⟨fun ⟨_, h⟩ => (by cases h), fun h => (by cases h)⟩
end

