-- ==== Sys2Proof/Laws/Scheduler.lean ====
section
/-! SUPPORT. The staleness test, the deadlines of the cyclic table and the writes of the transform slot, entry by entry
(42_staleness.md, 45_transform_slot.md, 46_output_scheduler.md). -/

namespace Sys2Proof.Machine

/-! ### Staleness -/

theorem isStale_iff (n : U64) (g : Signal) :
    isStale n g = true ↔ 0 < g.thresh.toNat ∧ g.thresh.toNat < n.toNat - g.ts.toNat := by
  unfold isStale
  rw [Bool.and_eq_true, decide_eq_true_iff, decide_eq_true_iff]; rfl

theorem staleSignal_eq (n : U64) (g : Signal) :
    staleSignal n g =
      if 0 < g.thresh.toNat ∧ g.thresh.toNat < n.toNat - g.ts.toNat ∧ g.status ≠ .timeout then
        { g with status := .timeout, updated := true }
      else g := by
  unfold staleSignal
  congr 1
  rw [Bool.and_eq_true, isStale_iff, bne_iff_ne, and_assoc]

/-! ### Deadlines -/

theorem period_toNat (w : Word) : (0#32 ++ w : U64).toNat = w.toNat := by
  have h : (0#32 ++ w : BitVec (32 + 32)).toNat = w.toNat := by rw [BitVec.toNat_append]; simp
  exact h

theorem advanceDeadline_eq (e : CyclicEntry) :
    advanceDeadline e = { e with dl := BitVec.ofNat 64 (e.dl.toNat + e.period.toNat) } := by
  unfold advanceDeadline
  congr 1
  apply BitVec.eq_of_toNat_eq
  rw [BitVec.toNat_add, period_toNat, BitVec.toNat_ofNat]

theorem cycFires_iff (n : U64) (s : State) (e : CyclicEntry) :
    (cycEnabled s e && cycDue n e) = true ↔
      e.period ≠ 0#32 ∧ e.src.toNat < s.sigs.length ∧ e.dl.toNat ≤ n.toNat := by
  simp [cycEnabled, cycDue, sigInRange, and_assoc]

/-- One iteration moves its own deadline, where its entry fires (46_output_scheduler.md R290). -/
theorem cyclicEntry_cycAt (n : U64) (c j : Nat) (s : State) :
    cycAt (cyclicEntry n c s) j =
      if j = c ∧ cycEnabled s (cycAt s c) && cycDue n (cycAt s c) then advanceDeadline (cycAt s c)
      else cycAt s j := by
  unfold cyclicEntry
  by_cases h : cycEnabled s (cycAt s c) && cycDue n (cycAt s c)
  · rw [if_pos h]
    unfold fireCyclic
    have hc : c < s.cycs.length := by
      by_contra hc
      have : cycAt s c = CyclicEntry.zero := by simp [cycAt, List.getD_eq_getElem?_getD, Nat.le_of_not_lt hc]
      rw [this] at h; simp [cycEnabled, CyclicEntry.zero] at h
    rw [cycAt_setCyc]
    have h2 : (appendOut (cycAt s c).target (sigAt s (cycAt s c).src.toNat).value n s).cycs = s.cycs := by
      rw [appendOut_only]
    rw [h2, cycAt_congr h2]
    by_cases hj : j = c
    · subst hj; simp [h, hc]
    · simp [hj, Ne.symm hj]
  · rw [if_neg h]; simp only [Bool.not_eq_true] at h; simp [h]

/-- The first `k` iterations move the deadlines of the firing entries below `k` (46_output_scheduler.md R294). -/
theorem ascending_cyc (n : U64) (s : State) (k : Nat) :
    (∀ j, k ≤ j → cycAt (ascending k (cyclicEntry n) s) j = cycAt s j) ∧
    (∀ j, j < k →
      cycAt (ascending k (cyclicEntry n) s) j =
        if cycEnabled s (cycAt s j) && cycDue n (cycAt s j) then advanceDeadline (cycAt s j) else cycAt s j) := by
  induction k with
  | zero => exact ⟨fun _ _ => rfl, fun j h => absurd h (by omega)⟩
  | succ k ih =>
    have hsigs : (ascending k (cyclicEntry n) s).sigs = s.sigs :=
      ascending_same (·.sigs) _ _ _ fun i t _ => by show (cyclicEntry n i t).sigs = t.sigs; rw [cyclicEntry_only]
    have hen : ∀ e, cycEnabled (ascending k (cyclicEntry n) s) e = cycEnabled s e :=
      fun e => by simp [cycEnabled, sigInRange, hsigs]
    refine ⟨fun j hj => ?_, fun j hj => ?_⟩
    · rw [ascending_succ, cyclicEntry_cycAt, if_neg (by simp; omega)]; exact ih.1 j (by omega)
    · rw [ascending_succ, cyclicEntry_cycAt, ih.1 k (by omega), hen]
      by_cases h : j = k
      · subst h; simp; split
        · rfl
        · exact ih.1 j (by omega)
      · simp [h]; exact (by simpa using ih.2 j (by omega))

/-- Phase 6 moves the deadline of each entry that is enabled and due, and of no other (46_output_scheduler.md R294). -/
theorem cycAt_cyclicPhase (n : U64) (s : State) (c : Nat) :
    cycAt (cyclicPhase n s) c =
      if cycEnabled s (cycAt s c) && cycDue n (cycAt s c) then advanceDeadline (cycAt s c) else cycAt s c := by
  unfold cyclicPhase
  obtain ⟨h1, h2⟩ := ascending_cyc n s s.cycs.length
  by_cases h : c < s.cycs.length
  · exact h2 c h
  · have hz : cycAt s c = CyclicEntry.zero := by simp [cycAt, List.getD_eq_getElem?_getD, Nat.le_of_not_lt h]
    rw [h1 c (by omega), hz]; simp [cycEnabled, CyclicEntry.zero]

/-! ### The transform slot -/

/-- A supplied `XFORM`, signal by signal (45_transform_slot.md R281). -/
theorem sigAt_xformSupplied (k : Nat) (n : U64) (s : State) (i : Nat) :
    sigAt (xformSupplied k n s) i = if i < s.sigs.length then xformSignal k n s i (sigAt s i) else sigAt s i := by
  by_cases h : i < s.sigs.length
  · rw [if_pos h]; exact getD_mapIdx _ _ _ Signal.zero _ h
  · rw [if_neg h]; simp [sigAt, xformSupplied, List.getD_eq_getElem?_getD, Nat.le_of_not_lt h]

end Sys2Proof.Machine
end

