-- ==== Sys2Proof/Laws/Sequencer.lean ====
section
/-! SUPPORT. The phases do not read the sequencer's position, so a step run phase by phase is the atomic step
(40_host_interface.md R150, R153; 10_state.md R23). -/

namespace Sys2Proof.Machine

/-- `s` with the sequencer at `q`. -/
def atSeq (q : Sequencer) (s : State) : State := { s with seq := q }

@[simp] theorem atSeq_seq (q : Sequencer) (s : State) : (atSeq q s).seq = q := rfl
@[simp] theorem atSeq_mrgs (q : Sequencer) (s : State) : (atSeq q s).mrgs = s.mrgs := rfl
@[simp] theorem atSeq_mons (q : Sequencer) (s : State) : (atSeq q s).mons = s.mons := rfl
@[simp] theorem atSeq_cycs (q : Sequencer) (s : State) : (atSeq q s).cycs = s.cycs := rfl
@[simp] theorem atSeq_port (q : Sequencer) (s : State) : (atSeq q s).port = s.port := rfl
@[simp] theorem atSeq_atSeq (q r : Sequencer) (s : State) : atSeq q (atSeq r s) = atSeq q s := rfl

/-- The sequencer moves to the phase that follows (40_host_interface.md R150). -/
theorem advanceSeq_atSeq {p q : Phase} {s : State} (n : U64) (h : phaseAfter s.mrgs.length p = some q) :
    advanceSeq (atSeq (.running p n) s) = atSeq (.running q n) s := by
  simp only [advanceSeq, atSeq_seq, atSeq_mrgs, h]; rfl

theorem emitWake_atSeq (k : Nat) (v lvl : Word) (src : Bool) (q : Sequencer) (s : State) :
    emitWake k v lvl src (atSeq q s) = atSeq q (emitWake k v lvl src s) := by
  by_cases h : s.wakes.length < s.maxWake
  · rw [emitWake_room _ _ _ _ _ h,
      emitWake_room _ _ _ _ _ (show (atSeq q s).wakes.length < (atSeq q s).maxWake from h)]; rfl
  · rw [emitWake_full _ _ _ _ _ h,
      emitWake_full _ _ _ _ _ (show ¬ (atSeq q s).wakes.length < (atSeq q s).maxWake from h)]; rfl

theorem ingestEvent_atSeq (q : Sequencer) (s : State) (e : Event) :
    ingestEvent (atSeq q s) e = atSeq q (ingestEvent s e) := by
  have hf : ∀ k t, fastCheck e k (atSeq q t) = atSeq q (fastCheck e k t) := fun k t => by
    unfold fastCheck
    by_cases h : fastTrips t e (monAt t k) = true
    · rw [if_pos h, if_pos (show fastTrips (atSeq q t) e (monAt (atSeq q t) k) = true from h)]; exact emitWake_atSeq ..
    · rw [if_neg h, if_neg (show ¬ fastTrips (atSeq q t) e (monAt (atSeq q t) k) = true from h)]
  unfold ingestEvent
  by_cases h : sigInRange s e.id = true
  · rw [if_pos h, if_pos (show sigInRange (atSeq q s) e.id = true from h)]
    exact ascending_comm (atSeq q) s.mons.length (fastCheck e) (ingestOne e s) hf
  · rw [if_neg h, if_neg (show ¬ sigInRange (atSeq q s) e.id = true from h)]

theorem ingest_atSeq (q : Sequencer) (s : State) : ingest (atSeq q s) = atSeq q (ingest s) := by
  have : ∀ (es : List Event) (t : State), es.foldl ingestEvent (atSeq q t) = atSeq q (es.foldl ingestEvent t) := by
    intro es
    induction es with
    | nil => exact fun _ => rfl
    | cons e es ih => intro t; rw [List.foldl_cons, List.foldl_cons, ingestEvent_atSeq, ih]
  show { s.fifo.foldl ingestEvent (atSeq q s) with fifo := [] } = _
  rw [this]; rfl

theorem mergePass_atSeq (vote : List Int → Nat → Int × Status) (en : Bool) (nin : BitVec 4) (n : U64) (m : Nat)
    (q : Sequencer) (s : State) :
    mergePass vote en nin n m (atSeq q s) = atSeq q (mergePass vote en nin n m s) := by
  unfold mergePass; rw [atSeq_mrgs]
  cases s.mrgs[m]? with
  | none => rfl
  | some e =>
    simp only
    by_cases h : mergeSkip s en nin e = true
    · rw [if_pos h, if_pos (show mergeSkip (atSeq q s) en nin e = true from h)]
    · rw [if_neg h, if_neg (show ¬ mergeSkip (atSeq q s) en nin e = true from h)]
      unfold mergeVote; dsimp only
      by_cases hv : validInputs s nin e = []
      · rw [if_pos hv, if_pos (show validInputs (atSeq q s) nin e = [] from hv)]; rfl
      · rw [if_neg hv, if_neg (show ¬ validInputs (atSeq q s) nin e = [] from hv)]; rfl

theorem mergeEntry_atSeq (n : U64) (m : Nat) (q : Sequencer) (s : State) :
    mergeEntry n m (atSeq q s) = atSeq q (mergeEntry n m s) := by
  unfold mergeEntry; rw [atSeq_mrgs]
  cases s.mrgs[m]? with
  | none => rfl
  | some e =>
    simp only
    split <;> first | rfl | exact mergePass_atSeq ..

theorem mergePhase_atSeq (n : U64) (q : Sequencer) (s : State) : mergePhase n (atSeq q s) = atSeq q (mergePhase n s) :=
  ascending_comm (atSeq q) _ _ _ fun m t => mergeEntry_atSeq n m q t

theorem limpFsm_atSeq (n : U64) (f : Bool) (i : Nat) (q : Sequencer) (s : State) :
    limpFsm n f i (atSeq q s) = atSeq q (limpFsm n f i s) := by
  show (if _ then _ else _) = _
  unfold limpFsm; dsimp only
  have e1 : limpRuns (atSeq q s) (monAt (atSeq q s) i) = limpRuns s (monAt s i) := rfl
  have e2 : monAt (atSeq q s) i = monAt s i := rfl
  rw [e1, e2]
  repeat' split
  all_goals rfl

theorem monitorEntry_atSeq (n : U64) (i : Nat) (q : Sequencer) (s : State) :
    monitorEntry n i (atSeq q s) = atSeq q (monitorEntry n i s) := by
  unfold monitorEntry
  by_cases h : monValid s (monAt s i) = true
  · rw [if_pos h, if_pos (show monValid (atSeq q s) (monAt (atSeq q s) i) = true from h)]
    have hc : ∀ k f t, cycleWake i k f (atSeq q t) = atSeq q (cycleWake i k f t) := fun k f t => by
      unfold cycleWake; split
      · exact emitWake_atSeq ..
      · rfl
    unfold monitorPass; dsimp only
    have e1 : faultOf n (atSeq q s) i = faultOf n s i := rfl
    have e2 : faultOutput n (monAt (atSeq q s) i) (faultOf n s i) (atSeq q s) =
      atSeq q (faultOutput n (monAt s i) (faultOf n s i) s) := rfl
    rw [e1, e2, hc]
    exact limpFsm_atSeq n (faultOf n s i) i q (faultMemory i (faultOf n s i) _)
  · rw [if_neg h, if_neg (show ¬ monValid (atSeq q s) (monAt (atSeq q s) i) = true from h)]

theorem monitorPhase_atSeq (n : U64) (q : Sequencer) (s : State) :
    monitorPhase n (atSeq q s) = atSeq q (monitorPhase n s) :=
  ascending_comm (atSeq q) _ _ _ fun i t => monitorEntry_atSeq n i q t

theorem cyclicPhase_atSeq (n : U64) (q : Sequencer) (s : State) :
    cyclicPhase n (atSeq q s) = atSeq q (cyclicPhase n s) := by
  refine ascending_comm (atSeq q) _ _ _ fun c t => ?_
  unfold cyclicEntry
  by_cases h : (cycEnabled t (cycAt t c) && cycDue n (cycAt t c)) = true
  · rw [if_pos h,
      if_pos (show (cycEnabled (atSeq q t) (cycAt (atSeq q t) c) && cycDue n (cycAt (atSeq q t) c)) = true from h)]
    unfold fireCyclic appendOut
    by_cases h2 : t.outs.length < t.maxOutputEvents
    · rw [if_pos h2, if_pos (show (atSeq q t).outs.length < (atSeq q t).maxOutputEvents from h2)]; rfl
    · rw [if_neg h2, if_neg (show ¬ (atSeq q t).outs.length < (atSeq q t).maxOutputEvents from h2)]; rfl
  · rw [if_neg h,
      if_neg (show ¬ (cycEnabled (atSeq q t) (cycAt (atSeq q t) c) && cycDue n (cycAt (atSeq q t) c)) = true from h)]

theorem transformPhase_atSeq (n : U64) (q : Sequencer) (s : State) :
    transformPhase n (atSeq q s) = atSeq q (transformPhase n s) := by
  unfold transformPhase; rw [show (atSeq q s).xform = s.xform from rfl]
  cases s.xform <;> rfl

/-- No phase reads or moves the sequencer (10_state.md R23). -/
theorem runPhase_atSeq (p : Phase) (n : U64) (q : Sequencer) (s : State) :
    runPhase p n (atSeq q s) = atSeq q (runPhase p n s) := by
  cases p with
  | ingest => exact ingest_atSeq q s
  | merge m => exact mergeEntry_atSeq n m q s
  | monitor => exact monitorPhase_atSeq n q s
  | transform => exact transformPhase_atSeq n q s
  | cyclic => exact cyclicPhase_atSeq n q s
  | _ => rfl

/-! ### A merge selector at its entry is the entry's pass -/

theorem usedSlots_legalNin (nin : BitVec 4) (e : MergeEntry) : usedSlots (legalNin nin) e = usedSlots nin e := by
  unfold legalNin; split
  · rfl
  · have h8 : ∀ k, 8 ≤ k → e.slots.toList.take k = e.slots.toList :=
      fun k hk => List.take_of_length_le (by simpa [Slots.toList] using hk)
    unfold usedSlots
    rw [h8 _ (by decide), h8 _ (by omega)]

theorem mergePass_legalNin (vote : List Int → Nat → Int × Status) (en : Bool) (nin : BitVec 4) (n : U64) (m : Nat)
    (s : State) : mergePass vote en (legalNin nin) n m s = mergePass vote en nin n m s := by
  unfold mergePass mergeSkip mergeVote validInputs; simp only [usedSlots_legalNin]

/-- The selector of an entry's MRG_CTRL word, run at that entry, is the entry's pass (43_merge_voter.md R200). -/
theorem exec_selector_at {s : State} {m : Nat} {n : U64} {e : MergeEntry} (hs : s.seq = .running (.merge m) n)
    (he : s.mrgs[m]? = some e) : exec (decodeSelector (mrgCtrlWord e)) s = .next (mergeEntry n m s) := by
  unfold decodeSelector mrgCtrlWord mergeEntry
  rw [he]
  simp only [selectorMethod_mkSelector, selectorNin_mkSelector, selector_en_lsb]
  have key : ∀ vote, atMergeEntry (mergePass vote e.en (legalNin e.nin)) s = mergePass vote e.en e.nin n m s :=
    fun vote => by
    rw [← mergePass_legalNin]; simp [atMergeEntry, hs]
  split <;> rename_i h
  · simp only [h]; exact congrArg Host.Outcome.next (key voteMin)
  · simp only [h]; exact congrArg Host.Outcome.next (key voteMax)
  · simp only [h]; exact congrArg Host.Outcome.next (key voteAverage)
  · simp only [h]; exact congrArg Host.Outcome.next (key voteMedian)
  · simp only [h]; exact congrArg Host.Outcome.next (key voteMajority)
  all_goals (split <;> first | rfl | simp_all)

end Sys2Proof.Machine
end

