-- ==== Sys2Proof/Laws/StepFlags.lean ====
section
/-! SUPPORT. What the phases of a step do to the sticky flags and to the fill of the buffers (60_exceptions.md R310;
10_state.md R33 to R35). -/

namespace Sys2Proof.Machine

/-! ### EVT_OVF and CMD_ERR stay -/

theorem fastCheck_status (e : Event) (k : Nat) (s : State) :
    (fastCheck e k s).status.evtOvf = s.status.evtOvf ∧ (fastCheck e k s).status.cmdErr = s.status.cmdErr := by
  unfold fastCheck; split
  · obtain ⟨a, b, -⟩ := emitWake_status k e.value (monAt s k).level false s; exact ⟨a, b⟩
  · exact ⟨rfl, rfl⟩

theorem ingest_status (s : State) :
    (ingest s).status.evtOvf = s.status.evtOvf ∧ (ingest s).status.cmdErr = s.status.cmdErr := by
  show (s.fifo.foldl ingestEvent s).status.evtOvf = _ ∧ (s.fifo.foldl ingestEvent s).status.cmdErr = _
  generalize s.fifo = es
  induction es generalizing s with
  | nil => exact ⟨rfl, rfl⟩
  | cons e es ih =>
    rw [List.foldl_cons]
    have h : (ingestEvent s e).status.evtOvf = s.status.evtOvf ∧ (ingestEvent s e).status.cmdErr = s.status.cmdErr := by
      unfold ingestEvent; split
      · exact ascending_keeps (fun t => t.status.evtOvf = s.status.evtOvf ∧ t.status.cmdErr = s.status.cmdErr) _ _ _
          (fun i t _ h => ⟨(fastCheck_status e i t).1.trans h.1, (fastCheck_status e i t).2.trans h.2⟩) ⟨rfl, rfl⟩
      · exact ⟨rfl, rfl⟩
    exact ⟨(ih _).1.trans h.1, (ih _).2.trans h.2⟩

theorem monitorPass_status (n : U64) (i : Nat) (s : State) :
    (monitorPass n i s).status =
      (cycleWake i (monAt s i) (faultOf n s i) (faultOutput n (monAt s i) (faultOf n s i) s)).status ∧
    (monitorPass n i s).wakes =
      (cycleWake i (monAt s i) (faultOf n s i) (faultOutput n (monAt s i) (faultOf n s i) s)).wakes := by
  rw [monitorPass_eq, limpFsm_only]
  exact ⟨rfl, rfl⟩

theorem monitorEntry_status (n : U64) (i : Nat) (s : State) :
    (monitorEntry n i s).status.evtOvf = s.status.evtOvf ∧ (monitorEntry n i s).status.cmdErr = s.status.cmdErr := by
  unfold monitorEntry; split
  · rw [(monitorPass_status n i s).1]
    unfold cycleWake; split
    · obtain ⟨a, b, -⟩ :=
        emitWake_status i (sigAt (faultOutput n (monAt s i) (faultOf n s i) s) (monAt s i).watch.toNat).value
          (monAt s i).level true (faultOutput n (monAt s i) (faultOf n s i) s)
      exact ⟨a, b⟩
    · exact ⟨rfl, rfl⟩
  · exact ⟨rfl, rfl⟩

theorem monitorPhase_status (n : U64) (s : State) :
    (monitorPhase n s).status.evtOvf = s.status.evtOvf ∧ (monitorPhase n s).status.cmdErr = s.status.cmdErr :=
  ascending_keeps (fun t => t.status.evtOvf = s.status.evtOvf ∧ t.status.cmdErr = s.status.cmdErr) _ _ _
    (fun i t _ h => ⟨(monitorEntry_status n i t).1.trans h.1, (monitorEntry_status n i t).2.trans h.2⟩) ⟨rfl, rfl⟩

theorem runPhases_status (n : U64) (s : State) :
    (runPhases n s).status.evtOvf = s.status.evtOvf ∧ (runPhases n s).status.cmdErr = s.status.cmdErr := by
  simp only [runPhases, epilogue_status, cyclicPhase_status, transformPhase_status]
  obtain ⟨a, b⟩ := monitorPhase_status n (mergePhase n (staleness n (ingest (prologue s))))
  obtain ⟨c, d⟩ := ingest_status (prologue s)
  rw [a, b]; simp [c, d]

/-! ### WAKE_PEND and WAKE_OVF are never cleared -/

/-- No wake flag of `a` is clear in `b` (60_exceptions.md R310). -/
def WakeGrow (a b : Flags) : Prop := (a.wakePend = true → b.wakePend = true) ∧ (a.wakeOvf = true → b.wakeOvf = true)

theorem WakeGrow.refl (a : Flags) : WakeGrow a a := ⟨id, id⟩

theorem WakeGrow.trans {a b c : Flags} (h1 : WakeGrow a b) (h2 : WakeGrow b c) : WakeGrow a c :=
  ⟨h2.1 ∘ h1.1, h2.2 ∘ h1.2⟩

theorem emitWake_grow (k : Nat) (v lvl : Word) (src : Bool) (s : State) :
    WakeGrow s.status (emitWake k v lvl src s).status := by
  by_cases h : s.wakes.length < s.maxWake
  · rw [emitWake_room _ _ _ _ _ h]; exact ⟨fun _ => rfl, id⟩
  · rw [emitWake_full _ _ _ _ _ h]; exact ⟨fun _ => rfl, fun _ => rfl⟩

theorem ingest_grow (s : State) : WakeGrow s.status (ingest s).status := by
  show WakeGrow _ (s.fifo.foldl ingestEvent s).status
  generalize s.fifo = es
  induction es generalizing s with
  | nil => exact .refl _
  | cons e es ih =>
    rw [List.foldl_cons]
    refine WakeGrow.trans ?_ (ih _)
    unfold ingestEvent; split
    · refine ascending_keeps (fun t => WakeGrow s.status t.status) _ _ _ (fun i t _ h => h.trans ?_) (.refl _)
      unfold fastCheck; split
      · exact emitWake_grow ..
      · exact .refl _
    · exact .refl _

theorem monitorPhase_grow (n : U64) (s : State) : WakeGrow s.status (monitorPhase n s).status := by
  refine ascending_keeps (fun t => WakeGrow s.status t.status) _ _ _ (fun i t _ h => h.trans ?_) (.refl _)
  unfold monitorEntry; split
  · rw [(monitorPass_status n i t).1]
    unfold cycleWake; split
    · exact emitWake_grow _ _ _ _ (faultOutput n (monAt t i) (faultOf n t i) t)
    · exact .refl _
  · exact .refl _

theorem runPhases_grow (n : U64) (s : State) : WakeGrow s.status (runPhases n s).status := by
  have h1 := ingest_grow (prologue s)
  have h2 := monitorPhase_grow n (mergePhase n (staleness n (ingest (prologue s))))
  simp only [mergePhase_status, staleness_status, prologue_status] at h1 h2
  simp only [runPhases, epilogue_status, cyclicPhase_status, transformPhase_status]
  exact h1.trans h2

/-! ### The buffers stay within their capacity -/

/-- The FIFO and both buffers are within their capacity (10_state.md R33 to R35). -/
abbrev Bounds (s : State) : Prop :=
  s.fifo.length ≤ s.maxEvents ∧ s.outs.length ≤ s.maxOutputEvents ∧ s.wakes.length ≤ s.maxWake

theorem ascending_wakes_bound (n : Nat) (f : Nat → State → State) (s : State)
    (hf : ∀ i t, t.wakes.length ≤ t.maxWake → (f i t).wakes.length ≤ (f i t).maxWake)
    (h : s.wakes.length ≤ s.maxWake) : (ascending n f s).wakes.length ≤ (ascending n f s).maxWake :=
  ascending_keeps (fun t => t.wakes.length ≤ t.maxWake) _ _ _ (fun i t _ h => hf i t h) h

theorem emitWake_keeps_bound (k : Nat) (v lvl : Word) (src : Bool) (s : State) (h : s.wakes.length ≤ s.maxWake) :
    (emitWake k v lvl src s).wakes.length ≤ (emitWake k v lvl src s).maxWake := by
  have : (emitWake k v lvl src s).maxWake = s.maxWake := by rw [emitWake_only]
  rw [this]; exact emitWake_bound _ _ _ _ _ h

theorem fastCheck_bound (e : Event) (k : Nat) (s : State) (h : s.wakes.length ≤ s.maxWake) :
    (fastCheck e k s).wakes.length ≤ (fastCheck e k s).maxWake := by
  unfold fastCheck; split
  · exact emitWake_keeps_bound _ _ _ _ _ h
  · exact h

theorem fastPath_bound (e : Event) (s : State) (h : s.wakes.length ≤ s.maxWake) :
    (fastPath e s).wakes.length ≤ (fastPath e s).maxWake :=
  ascending_wakes_bound _ _ _ (fastCheck_bound e) h

theorem ingest_wakes_bound (s : State) (h : s.wakes.length ≤ s.maxWake) : (ingest s).wakes.length ≤ s.maxWake := by
  rw [← ingest_maxWake s]
  show (s.fifo.foldl ingestEvent s).wakes.length ≤ (s.fifo.foldl ingestEvent s).maxWake
  generalize s.fifo = es
  induction es generalizing s with
  | nil => exact h
  | cons e es ih =>
    rw [List.foldl_cons]; apply ih
    unfold ingestEvent; split
    · exact fastPath_bound e _ h
    · exact h

theorem monitorEntry_bound (n : U64) (i : Nat) (s : State) (h : s.wakes.length ≤ s.maxWake) :
    (monitorEntry n i s).wakes.length ≤ (monitorEntry n i s).maxWake := by
  have hm : (monitorEntry n i s).maxWake = s.maxWake := by rw [monitorEntry_only]
  rw [hm]
  unfold monitorEntry; split
  · rw [(monitorPass_status n i s).2]
    unfold cycleWake; split
    · exact emitWake_bound _ _ _ _ (faultOutput n (monAt s i) (faultOf n s i) s) h
    · exact h
  · exact h

theorem monitorPhase_wakes_bound (n : U64) (s : State) (h : s.wakes.length ≤ s.maxWake) :
    (monitorPhase n s).wakes.length ≤ s.maxWake := by
  rw [← monitorPhase_maxWake n s]; exact ascending_wakes_bound _ _ _ (monitorEntry_bound n) h

theorem cyclicPhase_outs_bound (n : U64) (s : State) (h : s.outs.length ≤ s.maxOutputEvents) :
    (cyclicPhase n s).outs.length ≤ s.maxOutputEvents := by
  rw [← cyclicPhase_maxOutputEvents n s]
  refine ascending_keeps (fun t => t.outs.length ≤ t.maxOutputEvents) _ _ _ (fun i t _ ht => ?_) h
  have : (cyclicEntry n i t).maxOutputEvents = t.maxOutputEvents := by rw [cyclicEntry_only]
  rw [this]
  unfold cyclicEntry; split
  · exact appendOut_bound _ _ _ _ ht
  · exact ht

theorem runPhase_bounds (p : Phase) (n : U64) (s : State) (h : Bounds s) : Bounds (runPhase p n s) := by
  obtain ⟨h1, h2, h3⟩ := h
  cases p with
  | prologue => simp [runPhase, Bounds]; exact h1
  | ingest => exact ⟨by simp [runPhase], by simpa [runPhase], by simpa [runPhase] using ingest_wakes_bound s h3⟩
  | staleness => exact ⟨by simpa [runPhase], by simpa [runPhase], by simpa [runPhase]⟩
  | merge m => exact ⟨by simpa [runPhase], by simpa [runPhase], by simpa [runPhase]⟩
  | monitor =>
    exact ⟨by simpa [runPhase], by simpa [runPhase], by simpa [runPhase] using monitorPhase_wakes_bound n s h3⟩
  | transform => exact ⟨by simpa [runPhase], by simpa [runPhase], by simpa [runPhase]⟩
  | cyclic => exact ⟨by simpa [runPhase], by simpa [runPhase] using cyclicPhase_outs_bound n s h2, by simpa [runPhase]⟩
  | epilogue => exact ⟨by simpa [runPhase], by simpa [runPhase], by simpa [runPhase]⟩

theorem runPhases_bounds (n : U64) (s : State) (h : Bounds s) : Bounds (runPhases n s) := by
  have h1 := runPhase_bounds .prologue n s h
  have h2 := runPhase_bounds .ingest n _ h1
  have h3 := runPhase_bounds .staleness n _ h2
  have h4 : Bounds (mergePhase n (staleness n (ingest (prologue s)))) :=
    ascending_keeps Bounds _ _ _ (fun m t _ ht => runPhase_bounds (.merge m) n t ht) h3
  have h5 := runPhase_bounds .monitor n _ h4
  have h6 := runPhase_bounds .transform n _ h5
  have h7 := runPhase_bounds .cyclic n _ h6
  exact runPhase_bounds .epilogue n _ h7

theorem runPhase_mrgs (p : Phase) (n : U64) (s : State) : (runPhase p n s).mrgs = s.mrgs := by
  cases p <;> simp [runPhase]

theorem runPhases_mrgs (n : U64) (s : State) : (runPhases n s).mrgs = s.mrgs := by simp [runPhases]

end Sys2Proof.Machine
end

