-- ==== Sys2Proof/Laws/StepFrame.lean ====
section
/-! SUPPORT. What the phases of a step leave of each table entry (40_host_interface.md R154): thresholds, the
configuration of a monitor, a transform and a cyclic entry. -/

namespace Sys2Proof.Machine

/-! ### Thresholds -/

theorem thresh_setSig {s : State} {i : Nat} {g : Signal} (h : g.thresh = (sigAt s i).thresh) (j : Nat) :
    (sigAt (setSig s i g) j).thresh = (sigAt s j).thresh := by
  rw [sigAt_setSig]; split
  · rename_i hh; rw [h, hh.1]
  · rfl

theorem thresh_map {s t : State} {f : Signal → Signal} (h : t.sigs = s.sigs.map f)
    (hf : ∀ g, (f g).thresh = g.thresh) (j : Nat) : (sigAt t j).thresh = (sigAt s j).thresh := by
  by_cases hj : j < s.sigs.length
  · rw [sigAt, h, getD_map _ _ _ Signal.zero _ hj, hf]; rfl
  · simp [sigAt, h, List.getD_eq_getElem?_getD, Nat.le_of_not_lt hj]

theorem prologue_thresh (s : State) (j : Nat) : (sigAt (prologue s) j).thresh = (sigAt s j).thresh :=
  thresh_map (f := fun g => { g with updated := false }) rfl (fun _ => rfl) j

theorem staleness_thresh (n : U64) (s : State) (j : Nat) : (sigAt (staleness n s) j).thresh = (sigAt s j).thresh :=
  thresh_map rfl (fun g => by unfold staleSignal; split <;> rfl) j

theorem ingest_thresh (s : State) (j : Nat) : (sigAt (ingest s) j).thresh = (sigAt s j).thresh := by
  show (sigAt (s.fifo.foldl ingestEvent s) j).thresh = _
  generalize s.fifo = es
  induction es generalizing s with
  | nil => rfl
  | cons e es ih =>
    rw [List.foldl_cons, ih]
    unfold ingestEvent; split
    · rw [sigAt_congr (fastPath_sigs ..)]; exact thresh_setSig (by rfl) j
    · rfl

theorem mergeEntry_thresh (n : U64) (m : Nat) (s : State) (j : Nat) :
    (sigAt (mergeEntry n m s) j).thresh = (sigAt s j).thresh := by
  have key : ∀ vote en nin, (sigAt (mergePass vote en nin n m s) j).thresh = (sigAt s j).thresh := by
    intro vote en nin; unfold mergePass
    split
    · rfl
    · split
      · rfl
      · unfold mergeVote; dsimp only; split
        · exact thresh_setSig (by rfl) j
        · exact thresh_setSig (by rfl) j
  unfold mergeEntry; split
  · rfl
  · split <;> first | rfl | exact key ..

theorem mergePhase_thresh (n : U64) (s : State) (j : Nat) : (sigAt (mergePhase n s) j).thresh = (sigAt s j).thresh :=
  ascending_same (fun t => (sigAt t j).thresh) _ _ _ fun m t _ => mergeEntry_thresh n m t j

theorem monitorPass_sigs (n : U64) (i : Nat) (s : State) :
    (monitorPass n i s).sigs = (faultOutput n (monAt s i) (faultOf n s i) s).sigs := by
  rw [monitorPass_eq, limpFsm_only]
  unfold beforeLimp faultMemory
  rw [cycleWake_only]; rfl

theorem monitorEntry_thresh (n : U64) (i : Nat) (s : State) (j : Nat) :
    (sigAt (monitorEntry n i s) j).thresh = (sigAt s j).thresh := by
  unfold monitorEntry; split
  · rw [sigAt_congr (monitorPass_sigs n i s)]; exact thresh_setSig (by rfl) j
  · rfl

theorem monitorPhase_thresh (n : U64) (s : State) (j : Nat) :
    (sigAt (monitorPhase n s) j).thresh = (sigAt s j).thresh :=
  ascending_same (fun t => (sigAt t j).thresh) _ _ _ fun m t _ => monitorEntry_thresh n m t j

theorem transformPhase_thresh (n : U64) (s : State) (j : Nat) :
    (sigAt (transformPhase n s) j).thresh = (sigAt s j).thresh := by
  obtain ⟨-, h⟩ | ⟨k, -, h⟩ := transformPhase_cases n s
  · rw [h]
  · rw [h, sigAt_xformSupplied]
    split
    · unfold xformSignal; split <;> rfl
    · rfl

/-! ### Monitors -/

/-- `k'` is `k` but for the runtime fields (10_state.md R55 to R57). -/
def sameConfig (k k' : Monitor) : Prop :=
  k' = { k with
    limpActive := k'.limpActive, faultActive := k'.faultActive, svHasMin := k'.svHasMin, svHasMax := k'.svHasMax
    svScale := k'.svScale, svMin := k'.svMin, svMax := k'.svMax, fctMs := k'.fctMs }

theorem sameConfig.refl (k : Monitor) : sameConfig k k := rfl

theorem sameConfig.trans {a b c : Monitor} (h1 : sameConfig a b) (h2 : sameConfig b c) : sameConfig a c := by
  unfold sameConfig at *; rw [h2, h1]

theorem setMon_config {s : State} {i : Nat} {k : Monitor} (h : sameConfig (monAt s i) k) (j : Nat) :
    sameConfig (monAt s j) (monAt (setMon s i k) j) := by
  rw [monAt_setMon]; split
  · rename_i hh; rw [← hh.1]; exact h
  · exact .refl _

theorem monitorEntry_config (n : U64) (i : Nat) (s : State) (j : Nat) :
    sameConfig (monAt s j) (monAt (monitorEntry n i s) j) := by
  unfold monitorEntry; split
  · rename_i hv
    have hl := monValid_lt hv
    rw [monitorPass_eq]
    have hb : sameConfig (monAt s j) (monAt (beforeLimp n i s) j) := by
      have : monAt (beforeLimp n i s) j = monAt (setMon s i { monAt s i with faultActive := faultOf n s i }) j :=
        monAt_congr (by simp) j
      rw [this]; exact setMon_config (by rfl) j
    refine hb.trans ?_
    rcases limpFsm_cases n (faultOf n s i) i (beforeLimp n i s) with ⟨-, h'⟩ | ⟨-, -, -, h'⟩ | ⟨-, -, h'⟩ |
      ⟨-, -, -, -, h'⟩ | ⟨-, -, -, -, h'⟩ <;> rw [h']
    · exact .refl _
    · exact setMon_config (s := beforeLimp n i s) (i := i) (by rfl) j
    · exact setMon_config (by rfl) j
    · exact setMon_config (s := beforeLimp n i s) (i := i) (by rfl) j
    · exact .refl _
  · exact .refl _

theorem monitorPhase_config (n : U64) (s : State) (j : Nat) : sameConfig (monAt s j) (monAt (monitorPhase n s) j) :=
  ascending_keeps (fun t => sameConfig (monAt s j) (monAt t j)) _ _ _
    (fun i t _ h => h.trans (monitorEntry_config n i t j)) (.refl _)

/-! ### Transforms -/

/-- A pass keeps EN, IN and OUT of every transform, and a transform that its monitor does not limp
(44_fault_monitor.md R251, R253). -/
theorem monitorEntry_xf (n : U64) (i : Nat) (s : State) (j : Nat) :
    ((xfAt (monitorEntry n i s) j).en = (xfAt s j).en ∧ (xfAt (monitorEntry n i s) j).inId = (xfAt s j).inId ∧
      (xfAt (monitorEntry n i s) j).outId = (xfAt s j).outId) ∧
    ((monValid s (monAt s i) = true → limpRuns s (monAt s i) = true → (monAt s i).target.toNat ≠ j) →
      xfAt (monitorEntry n i s) j = xfAt s j) := by
  unfold monitorEntry; split
  · rename_i hv
    have hl := monValid_lt hv
    have hb := monAt_beforeLimp (n := n) hl
    have hx := fun j => xfAt_beforeLimp n i s j
    have hr : limpRuns (beforeLimp n i s) (monAt (beforeLimp n i s) i) = limpRuns s (monAt s i) := by
      rw [hb]; simp [limpRuns]
    have ht : (monAt (beforeLimp n i s) i).target = (monAt s i).target := by rw [hb]
    rw [monitorPass_eq]
    have hset : ∀ (k : Monitor) (x : Xform),
        xfAt (setXf (setMon (beforeLimp n i s) i k) (monAt (beforeLimp n i s) i).target.toNat x) j =
        if (monAt s i).target.toNat = j ∧ (monAt s i).target.toNat < s.xfs.length then x else xfAt s j := by
      intro k x
      rw [xfAt_setXf, ht]
      simp only [setMon_xfs, beforeLimp_xfs]
      split
      · rfl
      · exact hx j
    rcases limpFsm_cases n (faultOf n s i) i (beforeLimp n i s) with ⟨-, h'⟩ | ⟨h1, -, -, h'⟩ | ⟨-, -, h'⟩ |
      ⟨h1, -, -, -, h'⟩ | ⟨-, -, -, -, h'⟩ <;> rw [h']
    · rw [hx]; exact ⟨⟨rfl, rfl, rfl⟩, fun _ => rfl⟩
    · rw [hset, hr] at *
      refine ⟨?_, fun hh => ?_⟩
      · split
        · rename_i hh; rw [ht, hx, hh.1]; exact ⟨rfl, rfl, rfl⟩
        · exact ⟨rfl, rfl, rfl⟩
      · rw [if_neg]; intro hc; exact hh hv h1 hc.1
    · show (_ ∧ _ ∧ _) ∧ (_ → xfAt (beforeLimp n i s) j = _)
      rw [show xfAt (setMon (beforeLimp n i s) i _) j = xfAt (beforeLimp n i s) j from rfl, hx]
      exact ⟨⟨rfl, rfl, rfl⟩, fun _ => rfl⟩
    · rw [hset, hr] at *
      refine ⟨?_, fun hh => ?_⟩
      · split
        · rename_i hh; rw [ht, hx, hh.1]; exact ⟨rfl, rfl, rfl⟩
        · exact ⟨rfl, rfl, rfl⟩
      · rw [if_neg]; intro hc; exact hh hv h1 hc.1
    · rw [hx]; exact ⟨⟨rfl, rfl, rfl⟩, fun _ => rfl⟩
  · exact ⟨⟨rfl, rfl, rfl⟩, fun _ => rfl⟩

theorem monitorPhase_xf (n : U64) (s : State) (j : Nat) :
    ((xfAt (monitorPhase n s) j).en = (xfAt s j).en ∧ (xfAt (monitorPhase n s) j).inId = (xfAt s j).inId ∧
      (xfAt (monitorPhase n s) j).outId = (xfAt s j).outId) ∧
    ((∀ k, monValid s (monAt s k) = true → limpRuns s (monAt s k) = true → (monAt s k).target.toNat ≠ j) →
      xfAt (monitorPhase n s) j = xfAt s j) := by
  refine ⟨ascending_keeps (fun t => (xfAt t j).en = (xfAt s j).en ∧ (xfAt t j).inId = (xfAt s j).inId ∧
    (xfAt t j).outId = (xfAt s j).outId) _ _ _ (fun i t _ ⟨h1, h2, h3⟩ => ?_) ⟨rfl, rfl, rfl⟩, fun hh => ?_⟩
  · obtain ⟨a, b, c⟩ := (monitorEntry_xf n i t j).1
    exact ⟨a.trans h1, b.trans h2, c.trans h3⟩
  · refine (ascending_keeps (fun t => xfAt t j = xfAt s j ∧ t.sigs.length = s.sigs.length ∧
      t.xfs.length = s.xfs.length ∧ ∀ k, sameConfig (monAt s k) (monAt t k)) _ _ _ (fun i t _ ⟨h1, h2, h3, h4⟩ => ?_)
        ⟨rfl, rfl, rfl, fun k => .refl _⟩).1
    obtain ⟨l1, l2, l3⟩ := monitorEntry_lengths n i t
    refine ⟨?_, l1.trans h2, l3.trans h3, fun k => (h4 k).trans (monitorEntry_config n i t k)⟩
    refine ((monitorEntry_xf n i t j).2 fun hv hr => ?_).trans h1
    have hk := h4 i
    rw [hk] at hv hr ⊢
    exact hh i (by simpa [monValid, sigInRange, h2] using hv) (by simpa [limpRuns, h3] using hr)

/-! ### Cyclic entries -/

theorem cyclicEntry_config (n : U64) (c : Nat) (s : State) (j : Nat) :
    (cycAt (cyclicEntry n c s) j).src = (cycAt s j).src ∧ (cycAt (cyclicEntry n c s) j).target = (cycAt s j).target ∧
      (cycAt (cyclicEntry n c s) j).period = (cycAt s j).period := by
  unfold cyclicEntry; split
  · unfold fireCyclic
    have h2 : ∀ a b d, (appendOut a b d s).cycs = s.cycs := fun a b d => by rw [appendOut_only]
    rw [cycAt_setCyc, cycAt_congr (h2 ..)]
    split
    · rename_i hh; rw [hh.1]; exact ⟨rfl, rfl, rfl⟩
    · exact ⟨rfl, rfl, rfl⟩
  · exact ⟨rfl, rfl, rfl⟩

theorem cyclicPhase_config (n : U64) (s : State) (j : Nat) :
    (cycAt (cyclicPhase n s) j).src = (cycAt s j).src ∧ (cycAt (cyclicPhase n s) j).target = (cycAt s j).target ∧
      (cycAt (cyclicPhase n s) j).period = (cycAt s j).period :=
  ascending_keeps (fun t => (cycAt t j).src = (cycAt s j).src ∧ (cycAt t j).target = (cycAt s j).target ∧
    (cycAt t j).period = (cycAt s j).period) _ _ _ (fun i t _ ⟨h1, h2, h3⟩ => by
    obtain ⟨a, b, c⟩ := cyclicEntry_config n i t j
    exact ⟨a.trans h1, b.trans h2, c.trans h3⟩) ⟨rfl, rfl, rfl⟩

end Sys2Proof.Machine
end

