-- ==== Sys2Proof/Tests/Slice0.lean ====
section
/-! SUPPORT. Tests. Expected results come from 95_test_vectors.md (its row is named) or from a rule by hand; each runs at
most one step. The last part gives, for each obligation with hypotheses, states and operands that meet them. -/

namespace Sys2Proof.Tests

open Sys2Proof Sys2Proof.Machine

/-- The reset state after host writes, given as pairs of byte offset and data. -/
def cfg (ws : List (Nat × Nat)) : State :=
  ws.foldl (fun s w => writeWord s (BitVec.ofNat 18 w.1) (BitVec.ofNat 32 w.2)) State.reset

/-- The state an outcome answers; the reset state for a stop (no outcome is one). -/
def after (o : Host.Outcome State Fault Refusal) : State :=
  match o with
  | .next s => s
  | .fault _ => State.reset
  | .refused _ => State.reset

/-- One step that runs the transaction `t`. -/
def run (t : Nat) (s : State) : State := after (step (s.withFetchWord 56 t))

/-- `STEP` at time `n` with the given events queued. -/
def stepAt (n : Nat) (evts : List Event) (s : State) : State :=
  after (exec .step { s with now := BitVec.ofNat 64 n, fifo := evts })

/-- An event of the vectors: signal id, value, status, timestamp. -/
def ev (i : Nat) (v : Int) (st : Status) (ts : Nat) : Event := ⟨BitVec.ofNat 16 i, BitVec.ofInt 32 v, st, BitVec.ofNat 64 ts⟩

/-- A signal in the notation of 95_test_vectors.md, its value read as an integer. -/
def sg (s : State) (i : Nat) : Int × Status × Nat × Bool :=
  ((sigAt s i).value.toInt, (sigAt s i).status, (sigAt s i).ts.toNat, (sigAt s i).updated)

/-- The word at a byte offset. -/
def rd (s : State) (a : Nat) : Nat := (readWord s (BitVec.ofNat 18 a)).toNat

/-- Signal `i` holds value `v` and status `st`. -/
def withSig (i : Nat) (v : Int) (st : Status) (s : State) : State :=
  setSig s i { sigAt s i with value := BitVec.ofInt 32 v, status := st }

/-! ### Well-formedness: an ill-formed term for each check -/

theorem test_wf_misaligned1 : (Instr.busErrorMisaligned1 true 0x012#18 0#32).wellFormed = false := by decide
theorem test_wf_misaligned2 : (Instr.busErrorMisaligned2 true 0x011#18 0#32).wellFormed = false := by decide
theorem test_wf_misaligned3 : (Instr.busErrorMisaligned3 true 0x010#18 0#32).wellFormed = false := by decide
theorem test_wf_cmdReserved : (Instr.cmdReserved 4#32).wellFormed = false := by decide
theorem test_wf_busRead : (Instr.busRead 0x002#18 0#32).wellFormed = false := by decide
theorem test_wf_busWrite_aligned : (Instr.busWrite 0x019#18 0#32).wellFormed = false := by decide
theorem test_wf_busWrite_cmd : (Instr.busWrite 0x010#18 7#32).wellFormed = false := by decide
theorem test_wf_busWrite_status : (Instr.busWrite 0x014#18 7#32).wellFormed = false := by decide
theorem test_wf_nin : (Instr.methodMin true 9#4).wellFormed = false ∧ (Instr.methodMax true 9#4).wellFormed = false ∧
    (Instr.methodAverage true 15#4).wellFormed = false ∧ (Instr.methodMedian true 9#4).wellFormed = false ∧
    (Instr.methodMajority true 9#4).wellFormed = false ∧ (Instr.methodReserved5 true 9#4).wellFormed = false ∧
    (Instr.methodReserved6 true 10#4).wellFormed = false ∧ (Instr.methodReserved7 true 9#4).wellFormed = false := by decide

/-! ### Decoding: each operation from a word written out from 30_encoding.md R101 to R104, R108 -/

/-- B-1. -/
theorem test_decode_busErrorSize0 : decodeTableWord 56 0x00000000000000 = some (.busErrorSize0 false 0x000#18 0#32) := by
  decide
/-- B-8. -/
theorem test_decode_busErrorSize0_cmd : decodeTableWord 56 0x10001000000001 = some (.busErrorSize0 true 0x010#18 1#32) := by
  decide
/-- B-2. -/
theorem test_decode_busErrorSize1 : decodeTableWord 56 0x04000000000000 = some (.busErrorSize1 false 0x000#18 0#32) := by
  decide
/-- B-3. -/
theorem test_decode_busErrorSize3 : decodeTableWord 56 0x0C000000000000 = some (.busErrorSize3 false 0x000#18 0#32) := by
  decide
/-- B-4. -/
theorem test_decode_busErrorMisaligned1 :
    decodeTableWord 56 0x18002100000009 = some (.busErrorMisaligned1 true 0x021#18 9#32) := by decide
/-- B-5. -/
theorem test_decode_busErrorMisaligned2 :
    decodeTableWord 56 0x18002200000009 = some (.busErrorMisaligned2 true 0x022#18 9#32) := by decide
/-- B-6. -/
theorem test_decode_busErrorMisaligned3 :
    decodeTableWord 56 0x18002300000009 = some (.busErrorMisaligned3 true 0x023#18 9#32) := by decide
/-- A byte access that is also misaligned: the first row in decode priority (30_encoding.md section 2; log 10). -/
theorem test_decode_size_first : decodeTableWord 56 0x00000100000000 = some (.busErrorSize0 false 0x001#18 0#32) := by decide
/-- H-29, P1, H-24, H-26, H-32. -/
theorem test_decode_commands :
    decodeTableWord 56 0x18001000000000 = some .nop ∧ decodeTableWord 56 0x18001000000001 = some .step ∧
    decodeTableWord 56 0x18001000000002 = some .evtPush ∧ decodeTableWord 56 0x18001000000003 = some .evtFlush ∧
    decodeTableWord 56 0x18001000000004 = some .init := by decide
/-- H-27, H-28. -/
theorem test_decode_cmdReserved :
    decodeTableWord 56 0x18001000000101 = some (.cmdReserved 0x101#32) ∧
    decodeTableWord 56 0x18001000000005 = some (.cmdReserved 5#32) ∧
    decodeTableWord 56 0x180010000000FF = some (.cmdReserved 0xFF#32) := by decide
/-- H-30. -/
theorem test_decode_statusW1c : decodeTableWord 56 0x180014FFFFFFF0 = some (.statusW1c 0xFFFFFFF0#32) := by decide
/-- H-1, and the last word of the window. -/
theorem test_decode_busRead :
    decodeTableWord 56 0x08000000000000 = some (.busRead 0x00000#18 0#32) ∧
    decodeTableWord 56 0x0BFFFC00000000 = some (.busRead 0x3FFFC#18 0#32) := by decide
/-- H-23. -/
theorem test_decode_busWrite : decodeTableWord 56 0x1A0060FFFFFFFB = some (.busWrite 0x20060#18 0xFFFFFFFB#32) := by decide
/-- 30_encoding.md R108: METHOD is bits [6:4], NIN [11:8], EN [0]. -/
theorem test_decode_methods :
    decodeTableWord 32 0x00000301 = some (.methodMin true 3#4) ∧ decodeTableWord 32 0x00000210 = some (.methodMax false 2#4) ∧
    decodeTableWord 32 0x00000821 = some (.methodAverage true 8#4) ∧
    decodeTableWord 32 0x00000331 = some (.methodMedian true 3#4) ∧
    decodeTableWord 32 0x00000141 = some (.methodMajority true 1#4) ∧
    decodeTableWord 32 0x00000051 = some (.methodReserved5 true 0#4) ∧
    decodeTableWord 32 0x00000361 = some (.methodReserved6 true 3#4) ∧
    decodeTableWord 32 0x00000070 = some (.methodReserved7 false 0#4) := by decide
/-- H-12: NIN 12 is stored as 8; bits outside the fields are ignored (30_encoding.md R110, 10_state.md R43). -/
theorem test_decode_nin_warl : decodeTableWord 32 0x00000C31 = some (.methodMedian true 8#4) ∧
    decodeTableWord 32 0xFFFFF78F = some (.methodMin true 7#4) := by decide
theorem test_decode_too_wide : decodeTableWord 56 0x20000000000000 = none ∧ decodeTableWord 32 0x100000000 = none := by decide

/-! ### The assembler (30_encoding.md R114 to R116), with the transactions of 95_test_vectors.md section 3 -/

/-- P1, the line `evt 0, 2990, OK, 99000`. -/
theorem test_asm_evt : assemble (.evt 0 2990 .ok 99000) =
    [0x18003000000000#53, 0x18003400000BAE#53, 0x18003800000000#53, 0x18003C000182B8#53, 0x18004000000000#53,
     0x18001000000002#53] := by decide
/-- P1, the lines `step 100000`, `mrgctl(0) 1, 3, 3` and `wr64 CYC(0).DL_LO, 100000`. -/
theorem test_asm_step_mrgctl_wr64 :
    assemble (.stepAt 100000) = [0x180020000186A0#53, 0x18002400000000#53, 0x18001000000001#53] ∧
    assemble (.mrgctl 0 1 3 3) = [0x18400000000331#53] ∧
    assemble (.wr64 (.sym (.cyc 0 .dlLo)) 100000) = [0x190010000186A0#53, 0x19001400000000#53] := by decide
/-- H-23, P4 and H-22: a negative data operand, `ack`, a read by name, and `wr64 NOW_LO`. -/
theorem test_asm_base :
    assemble (.wr (.sym (.sig 3 .value)) (-5)) = [0x1A0060FFFFFFFB#53] ∧ assemble (.ack 2) = [0x18001400000002#53] ∧
    assemble (.rd (.sym (.wake 2 .src))) = [0x08202C00000000#53] ∧ assemble (.cmd .init) = [0x18001000000004#53] ∧
    assemble (.now 0x100000005) = [0x18002000000005#53, 0x18002400000001#53] := by decide

/-! ### Bus operations -/

/-- B-1 to B-3: an error response with read data 0. -/
theorem test_busErrorSizes :
    (run 0x00000000000000 State.reset).resp = .error (some 0#32) ∧
    (run 0x04000000000000 State.reset).resp = .error (some 0#32) ∧
    (run 0x0C000000000000 State.reset).resp = .error (some 0#32) := by decide
/-- B-4 to B-8: no state changes, no step runs. -/
theorem test_busErrorWrites :
    (run 0x18002100000009 (cfg [(0x020, 5)])).now = 5#64 ∧ (run 0x18002200000009 (cfg [(0x020, 5)])).now = 5#64 ∧
    (run 0x18002300000009 (cfg [(0x020, 5)])).now = 5#64 ∧ (run 0x18001100000001 State.reset).stepCnt = 0#32 ∧
    (run 0x10001000000001 State.reset).stepCnt = 0#32 ∧ (run 0x10001000000001 State.reset).resp = .error none := by decide
/-- H-1 to H-4. -/
theorem test_busRead_identity :
    (run 0x08000000000000 State.reset).resp = .ok (some 0x4C514531#32) ∧
    (run 0x08000400000000 State.reset).resp = .ok (some 0x00080010#32) ∧
    (run 0x08000800000000 State.reset).resp = .ok (some 0x04040404#32) ∧
    (run 0x08000C00000000 State.reset).resp = .ok (some 0x00040004#32) := by decide
/-- H-5, H-18, H-20. -/
theorem test_busRead_zero :
    (run 0x08001000000000 State.reset).resp = .ok (some 0#32) ∧
    (run 0x08001C00000000 State.reset).resp = .ok (some 0#32) ∧
    (run 0x0A020000000000 State.reset).resp = .ok (some 0#32) := by decide
/-- H-8, H-9, H-10, H-11, H-12, H-13, H-14, H-15, H-16, H-17. -/
theorem test_busWrite_fields :
    rd (run 0x18003800000007 State.reset) 0x038 = 3 ∧ rd (run 0x180038FFFFFFFD State.reset) 0x038 = 5 ∧
    rd (run 0x18003000012345 State.reset) 0x030 = 0x2345 ∧ rd (run 0x1A000400000106 State.reset) 0x20004 = 3 ∧
    rd (run 0x18400000000C31 State.reset) 0x04000 = 0x831 ∧ rd (run 0x18404000000361 State.reset) 0x04040 = 0x361 ∧
    rd (run 0x188000FFFFFFFF State.reset) 0x08000 = 0xF3F ∧ rd (run 0x192000FFFFFFFF State.reset) 0x12000 = 7 ∧
    rd (run 0x180018FFFFFFFF State.reset) 0x018 = 1 ∧ rd (run 0x18801C000001FF State.reset) 0x0801C = 0xFF := by decide
/-- H-6, H-7, H-19, H-20, H-21, H-22. -/
theorem test_busWrite_ignored_and_pairs :
    rd (run 0x18000000000000 State.reset) 0x000 = 0x4C514531 ∧ rd (run 0x18002800000009 State.reset) 0x028 = 0 ∧
    rd (run 0x18300000000055 State.reset) 0x03000 = 0 ∧ rd (run 0x19400000000055 State.reset) 0x14000 = 0 ∧
    rd (run 0x1A001400000055 State.reset) 0x20014 = 0 ∧ rd (run 0x1A020000000055 State.reset) 0x20200 = 0 ∧
    rd (run 0x18410000000001 State.reset) 0x04100 = 0 ∧
    (run 0x18002400000001 (cfg [(0x020, 5)])).now = 0x100000005#64 := by decide
/-- H-30, H-31. -/
theorem test_statusW1c :
    (run 0x18001400000001 { State.reset with status := ⟨true, false, false, true⟩ }).status = ⟨false, false, false, true⟩ ∧
    (run 0x180014FFFFFFF0 { State.reset with status := ⟨false, false, false, true⟩ }).status = ⟨false, false, false, true⟩ ∧
    (run 0x18001400000002 { State.reset with status := ⟨true, true, false, false⟩ }).status = ⟨true, false, false, false⟩ := by
  decide

/-! ### Commands and reset -/

/-- H-29. -/
theorem test_nop : run 0x18001000000000 (cfg [(0x034, 9)]) = { cfg [(0x034, 9)] with resp := .ok none } := by decide
/-- H-24: the staged event goes to the back of the FIFO. -/
theorem test_evtPush : (run 0x18001000000002 { cfg [(0x030, 2), (0x034, 11)] with fifo := [ev 1 1 .ok 0] }).fifo =
    [ev 1 1 .ok 0, ev 2 11 .ok 0] := by decide
/-- H-25: at `MAX_EVENTS` the event is dropped and `EVT_OVF` is set. -/
theorem test_evtPush_full :
    (run 0x18001000000002 { State.reset with fifo := List.replicate 8 (ev 2 11 .ok 0) }).fifo.length = 8 ∧
    rd (run 0x18001000000002 { State.reset with fifo := List.replicate 8 (ev 2 11 .ok 0) }) 0x014 = 1 := by decide
/-- H-26: `EVT_OVF` stays. -/
theorem test_evtFlush :
    rd (run 0x18001000000003 { State.reset with fifo := [ev 2 11 .ok 0], status := ⟨true, false, false, false⟩ }) 0x044 = 0 ∧
    rd (run 0x18001000000003 { State.reset with fifo := [ev 2 11 .ok 0], status := ⟨true, false, false, false⟩ }) 0x014 = 1 := by
  decide
/-- H-32. -/
theorem test_init : run 0x18001000000004 { cfg [(0x04000, 0x331), (0x018, 1), (0x020, 77)] with stepCnt := 1#32 } =
    { State.reset with resp := .ok none } := by decide
/-- H-27. -/
theorem test_cmdReserved :
    rd (run 0x18001000000101 State.reset) 0x014 = 8 ∧ rd (run 0x18001000000101 State.reset) 0x028 = 0 := by decide
/-- E-10: a power-on reset inside a step. -/
theorem test_powerOnReset : step { cfg [(0x018, 1)] with seq := .running .monitor 7#64, port := [.powerOnReset] } =
    .next State.reset := by rfl

/-! ### STEP -/

/-- H-33: a step with nothing enabled. -/
theorem test_step_idle : stepAt 7 [] State.reset =
    { State.reset with now := 7#64, stepCnt := 1#32, resp := .ok none } := by decide
/-- I-2 and I-3 in one step: the flag is assigned, not ORed. -/
theorem test_ingest_assigns_updated :
    sg (stepAt 100 [ev 3 7 .ok 10, ev 3 7 .ok 20, ev 4 7 .ok 10, ev 4 9 .error 20, ev 16 7 .ok 10] State.reset) 3 =
      (7, .ok, 20, false) ∧
    sg (stepAt 100 [ev 3 7 .ok 10, ev 3 7 .ok 20, ev 4 7 .ok 10, ev 4 9 .error 20, ev 16 7 .ok 10] State.reset) 4 =
      (9, .error, 20, true) := by decide
/-- I-5: strict threshold; age 100 stays OK, age 101 is TIMEOUT. -/
theorem test_staleness :
    sg (stepAt 9100 [ev 2 5 .ok 9000] (cfg [(0x20050, 100)])) 2 = (5, .ok, 9000, true) ∧
    sg (stepAt 9101 [ev 2 5 .ok 9000] (cfg [(0x20050, 100)])) 2 = (5, .timeout, 9000, true) := by decide
/-- L1-8 and I-10: the fast path and the dropped record; monitor 0 watches signal 4. -/
theorem test_fastPath :
    (stepAt 1000 [ev 4 6000 .ok 1000] (cfg [(0x8000, 0x15), (0x8004, 4), (0x8008, 5), (0x8014, 5000), (0x8018, 2)])).wakes =
      [⟨0#8, 6000#32, 2#32, false⟩] ∧
    rd (stepAt 0 [ev 4 6001 .ok 0, ev 4 6002 .ok 0, ev 4 6003 .ok 0, ev 4 6004 .ok 0, ev 4 6005 .ok 0]
      (cfg [(0x8000, 0x15), (0x8004, 4), (0x8008, 5), (0x8014, 5000), (0x8018, 2)])) 0x014 = 6 := by decide
/-- M-33: the monitor sees the merge of the same step. -/
theorem test_merge_then_monitor :
    sg (stepAt 0 [ev 0 50 .ok 0, ev 3 150 .ok 0] (cfg [(0x4004, 2), (0x4010, 0), (0x4014, 3), (0x4000, 0x211),
      (0x8000, 5), (0x8004, 2), (0x8008, 1), (0x8014, 100), (0x8018, 2)])) 1 = (2, .ok, 0, true) := by decide
/-- L1-9: LIMP entered; the override is in the transform entry, the snapshot in the monitor. -/
theorem test_limp_entry :
    let s := stepAt 0 [ev 0 6000 .ok 0] (cfg [(0x1200C, 100), (0x8000, 0x305), (0x8008, 1), (0x8014, 5000), (0x8018, 2),
      (0x8020, 50), (0x802C, 500)])
    rd s 0x1200C = 50 ∧ rd s 0x8034 = 100 ∧ rd s 0x8030 = 3 ∧ sg s 1 = (2, .ok, 0, true) := by decide
/-- C-5 in the variant `MAX_OUTPUT_EVENTS` = 2: the lower entries win, all deadlines advance. -/
theorem test_cyclic_full :
    let s := stepAt 0 [] { cfg [(0x10000, 0), (0x10004, 10), (0x10008, 1000), (0x10020, 1), (0x10024, 11), (0x10028, 1000),
      (0x10040, 2), (0x10044, 12), (0x10048, 1000)] with maxOutputEvents := 2 }
    s.outs.map (fun e => e.target.toNat) = [10, 11] ∧ s.cycs.map (fun e => e.dl.toNat) = [1000, 1000, 1000, 0] := by decide

/-! ### METHOD rows, at merge entry 0: output signal 3, inputs 0, 1, 2 -/

/-- The engine at entry 0 in a step of time 1000, with inputs `vs` and tolerance `tol`. -/
def atMerge (tol : Nat) (vs : List Int) : State :=
  { (vs.zipIdx.foldl (fun s v => withSig v.2 v.1 .ok s)
      (cfg [(0x4004, 3), (0x4008, tol), (0x4010, 0), (0x4014, 1), (0x4018, 2)])) with seq := .running (.merge 0) 1000#64 }

/-- M-3, M-4. -/
theorem test_methodMin : sg (after (exec (.methodMin true 2#4) (atMerge 4 [5, 9]))) 3 = (5, .ok, 1000, true) ∧
    sg (after (exec (.methodMin true 2#4) (atMerge 3 [5, 9]))) 3 = (5, .inconsistent, 1000, true) := by decide
/-- M-2, M-24. -/
theorem test_methodMax : sg (after (exec (.methodMax true 3#4) (atMerge 0 [30, -5, 12]))) 3 = (30, .ok, 1000, true) ∧
    sg (after (exec (.methodMax true 2#4) (atMerge 4294967294 [-2147483648, 2147483647]))) 3 =
      (2147483647, .inconsistent, 1000, true) := by decide
/-- M-6, M-10. -/
theorem test_methodAverage : sg (after (exec (.methodAverage true 2#4) (atMerge 0 [-3, -4]))) 3 = (-3, .ok, 1000, true) ∧
    sg (after (exec (.methodAverage true 3#4) (atMerge 0 [-2147483648, -2147483648, -2147483647]))) 3 =
      (-2147483647, .ok, 1000, true) := by decide
/-- M-13, L1-5. -/
theorem test_methodMedian : sg (after (exec (.methodMedian true 2#4) (atMerge 0 [-3, -4]))) 3 = (-4, .ok, 1000, true) ∧
    sg (after (exec (.methodMedian true 3#4) (atMerge 50 [2990, 3000, 3010]))) 3 = (3000, .ok, 1000, true) := by decide
/-- M-17, M-18. -/
theorem test_methodMajority : sg (after (exec (.methodMajority true 3#4) (atMerge 0 [10, 10, 30]))) 3 = (10, .ok, 1000, true) ∧
    sg (after (exec (.methodMajority true 3#4) (atMerge 2 [10, 11, 50]))) 3 = (11, .inconsistent, 1000, true) := by decide
/-- M-29 and its like: a reserved method is skipped. -/
theorem test_methodReserved : exec (.methodReserved5 true 3#4) (atMerge 0 [1, 2, 3]) = .next (atMerge 0 [1, 2, 3]) ∧
    exec (.methodReserved6 true 3#4) (atMerge 0 [1, 2, 3]) = .next (atMerge 0 [1, 2, 3]) ∧
    exec (.methodReserved7 true 3#4) (atMerge 0 [1, 2, 3]) = .next (atMerge 0 [1, 2, 3]) := ⟨rfl, rfl, rfl⟩
/-- M-27 and M-28: only the slots in use are checked. -/
theorem test_merge_skip : sg (after (exec (.methodMin true 4#4) (setMrg (atMerge 0 [5, 9]) 0
      { mrgAt (atMerge 0 [5, 9]) 0 with slots := ⟨0#16, 1#16, 2#16, 3#16, 0#16, 0#16, 0#16, 0#16⟩ }))) 3 = (0, .ok, 0, false) ∧
    sg (after (exec (.methodMin true 2#4) (setMrg (atMerge 0 [5, 9]) 0
      { mrgAt (atMerge 0 [5, 9]) 0 with slots := ⟨0#16, 1#16, 2#16, 3#16, 0#16, 0#16, 0#16, 0#16⟩ }))) 3 =
      (5, .ok, 1000, true) := by decide
/-- M-26, with a slot out of range and a repeated one: only OK signals count, in slot order (43_merge_voter.md R202). -/
theorem test_validInputs :
    let s := withSig 1 99 .timeout (atMerge 0 [10, 0, 12])
    validInputs s 3#4 (mrgAt s 0) = [10, 12] ∧
    validInputs s 4#4 { mrgAt s 0 with slots := ⟨2#16, 16#16, 0#16, 2#16, 0#16, 0#16, 0#16, 0#16⟩ } = [12, 10, 12] := by decide
/-- M-31: no input; the value and the timestamp stay. -/
theorem test_merge_empty :
    sg (after (exec (.methodMin true 0#4) (withSig 3 3000 .ok (atMerge 0 [5, 9])))) 3 = (3000, .error, 0, false) := by decide

/-! ### Other phases -/

/-- F-5: DEGRADED and TIMEOUT are no fault for CHK_STATUS. -/
theorem test_trigStatus :
    ([.ok, .degraded, .outOfRange, .error, .timeout, .inconsistent] : List Status).map (fun st =>
      (sg (monitorEntry 0#64 0 (withSig 0 5 st (cfg [(0x8000, 9), (0x8008, 1), (0x8018, 2)]))) 1).1) = [0, 0, 2, 2, 0, 2] := by
  decide
/-- F-9, the first step: a cycle-level record on the rising edge. -/
theorem test_cycleWake :
    (monitorEntry 0#64 0 (withSig 0 11 .ok (cfg [(0x8000, 0x35), (0x8008, 1), (0x8014, 10), (0x8018, 2)]))).wakes =
      [⟨0#8, 11#32, 2#32, true⟩] := by decide
/-- X-1: with the default `XFORM_ID` an enabled transform changes nothing. -/
theorem test_xformId :
    let s := stepAt 0 [] (withSig 0 21 .ok (cfg [(0x12000, 7), (0x12008, 1), (0x1200C, 2)]))
    sg s 1 = (0, .ok, 0, false) ∧ rd s 0x1200C = 2 := by decide
/-- A supplied transform writes neither its entry nor its input (45_transform_slot.md R281). -/
theorem test_transform_frame :
    let s : State := { withSig 0 21 .ok (cfg [(0x12000, 7), (0x12008, 1), (0x1200C, 2)]) with xform := .supplied 0 }
    (transformPhase 0#64 s).xfs = s.xfs ∧ sg (transformPhase 0#64 s) 0 = (21, .ok, 0, false) := by decide
/-- C-6: the deadline wraps at 2^64. -/
theorem test_deadline_wraps : (cycAt (cyclicEntry 0xFFFFFFFFFFFFFFFF#64 0
    (cfg [(0x10008, 2), (0x10010, 0xFFFFFFFF), (0x10014, 0xFFFFFFFF)])) 0).dl = 1#64 := by decide

/-! ### Witnesses: for each obligation with hypotheses, values that meet them, at the boundaries of each clause -/

theorem witness_DecodeInvertsEncode :
    (Instr.cmdReserved 5#32).wellFormed = true ∧ (Instr.busErrorMisaligned3 false 0x3FFFF#18 0#32).wellFormed = true ∧
    (Instr.busWrite 0x018#18 1#32).wellFormed = true ∧ (Instr.busRead 0x3FFFC#18 0#32).wellFormed = true ∧
    (Instr.methodReserved7 true 8#4).wellFormed = true := by decide

/-- One word for each line of the statement; the lines exclude each other by their form. -/
theorem witness_TransactionDecodesByPriority :
    decodeTransaction (mkTxn false 1#2 0x010#18 0#32) = .busErrorSize1 false 0x010#18 0#32 ∧
    decodeTransaction (mkTxn true 2#2 0x013#18 0#32) = .busErrorMisaligned3 true 0x013#18 0#32 ∧
    decodeTransaction (mkTxn true 2#2 0x010#18 4#32) = .init ∧
    decodeTransaction (mkTxn true 2#2 0x010#18 5#32) = .cmdReserved 5#32 ∧
    decodeTransaction (mkTxn false 2#2 0x010#18 4#32) = .busRead 0x010#18 4#32 ∧
    decodeTransaction (mkTxn true 2#2 0x014#18 4#32) = .statusW1c 4#32 ∧
    decodeTransaction (mkTxn true 2#2 0x018#18 4#32) = .busWrite 0x018#18 4#32 := by decide

theorem reference_legal : State.reset.params.legal := by decide

/-- The last merge entry; NIN 8 and 9, METHOD 4 and 5. -/
theorem witness_MrgCtrlWriteStoresSelector : State.reset.params.legal ∧ 3 < State.reset.mrgs.length ∧
    ((0x841#32).extractLsb' 8 4).toNat ≤ 8 ∧ ¬ ((0x941#32).extractLsb' 8 4).toNat ≤ 8 ∧
    ¬ 5 ≤ ((0x841#32).extractLsb' 4 3).toNat ∧ 5 ≤ ((0x951#32).extractLsb' 4 3).toNat := by decide

/-- Each clause: a transaction at the port, a merge entry under way (the last one), nothing to do. -/
theorem witness_StepRunsDecodedInstruction :
    (let s : State := { State.reset with port := [.transaction 0x18001000000001#53] }
     s.seq = .idle ∧ s.port = .transaction 0x18001000000001#53 :: []) ∧
    (let s : State := { State.reset with seq := .running (.merge 3) 9#64, port := [.transaction 0#53] }
     s.seq = .running (.merge 3) 9#64 ∧ s.mrgs[3]? = some MergeEntry.zero ∧ s.port.head? ≠ some .powerOnReset) ∧
    (State.reset.seq = .idle ∧ State.reset.port = []) := by decide

theorem witness_BusErrorLeavesState :
    let s : State := { State.reset with port := [.transaction 0x18001100000001#53] }
    s.seq = .idle ∧ s.port = .transaction 0x18001100000001#53 :: [] ∧
    (txnSize 0x18001100000001#53 ≠ 2#2 ∨ (txnAddr 0x18001100000001#53).extractLsb' 0 2 ≠ 0#2) := by decide

/-- The first and the last named word of the build; an output entry present and the first past the count; likewise for the
wake records. -/
theorem witness_ReadsNamedWord : State.reset.params.legal ∧ regExists State.reset.params .lqeId = true ∧
    regExists State.reset.params (.sig 15 .thresh) = true ∧ regExists State.reset.params (.sig 16 .value) = false ∧
    (let s : State := { State.reset with outs := [⟨7#32, 8#32, 9#64⟩], wakes := [⟨1#8, 2#32, 3#32, true⟩] }
     s.outs[0]? = some ⟨7#32, 8#32, 9#64⟩ ∧ s.outs.length ≤ 1 ∧ s.wakes[0]? = some ⟨1#8, 2#32, 3#32, true⟩ ∧
     s.wakes.length ≤ 1) := by decide

/-- A reserved offset is no named word's; the offsets are of the control page, a hole, and the first entries past a table. -/
theorem witness_ReservedOffsetsRazWi : ∀ a ∈ [0x01C, 0x03000, 0x04100, 0x14000, 0x20014, 0x20200],
    ∀ r, regExists State.reset.params r = true → regOffset r ≠ (BitVec.ofNat 18 a).toNat := by
  intro a ha r hr h
  have h1 := regAt_at reference_legal hr h.symm
  have h2 : ∀ b ∈ [0x01C, 0x03000, 0x04100, 0x14000, 0x20014, 0x20200],
      regAt State.reset.params (BitVec.ofNat 18 b) = none := by decide
  rw [h2 a ha] at h1; cases h1

/-- The reference build, and the largest legal one. -/
theorem witness_CapabilityRegisters : State.reset.params.legal ∧
    (⟨4096, 65535, 255, 255, 255, 255, 256, 256, .supplied 0⟩ : Params).legal ∧ ∃ t, step State.reset = .next t :=
  ⟨by decide, by decide, _, rfl⟩

/-- A word of each mask. -/
theorem witness_WriteThenReadBack : State.reset.params.legal ∧
    regExists State.reset.params (.mon 3 .ctrl) = true ∧ rwMask (.mon 3 .ctrl) = some 0xF3F#32 ∧
    regExists State.reset.params (.cyc 0 .dlHi) = true ∧ rwMask (.cyc 0 .dlHi) = some 0xFFFFFFFF#32 ∧
    regExists State.reset.params (.mrg 3 .in7) = true ∧ rwMask (.mrg 3 .in7) = some 0xFFFF#32 ∧
    regExists State.reset.params .irqEn = true ∧ rwMask .irqEn = some 1#32 := by decide

/-- The two offsets next to each other. -/
theorem witness_BusWriteFrame : (0x024#18 : Addr) ≠ 0x020#18 := by decide

theorem witness_ReadOnlyWordsIgnoreWrites : State.reset.params.legal ∧
    regExists State.reset.params (.mon 3 .fctHi) = true ∧ readOnlyWord (.mon 3 .fctHi) = true ∧
    regExists State.reset.params (.wake 3 .src) = true ∧ readOnlyWord (.wake 3 .src) = true ∧
    readOnlyWord .stepCnt = true := by decide

/-- The last signal; codes 5 and 6. -/
theorem witness_StatusFieldsAreWarl : State.reset.params.legal ∧ 15 < State.reset.sigs.length ∧
    ((5#32).extractLsb' 0 3).toNat ≤ 5 ∧ ¬ ((6#32).extractLsb' 0 3).toNat ≤ 5 := by decide

/-- Room for one more event, and none. -/
theorem witness_EvtPushQueuesOrOverflows :
    (let s : State := { State.reset with fifo := List.replicate 7 (ev 0 0 .ok 0) }; s.fifo.length < s.maxEvents) ∧
    (let s : State := { State.reset with fifo := List.replicate 8 (ev 0 0 .ok 0) }; ¬ s.fifo.length < s.maxEvents) := by
  decide

theorem witness_ReservedCommandSetsCmdErr :
    let s : State := { State.reset with port := [.transaction (mkTxn true 2#2 0x010#18 5#32)] }
    s.seq = .idle ∧ s.port = .transaction (mkTxn true 2#2 0x010#18 5#32) :: [] ∧ 5 ≤ (5#32 : Word).toNat := by decide

theorem witness_PowerOnResetAbandonsStep :
    let s : State := { State.reset with seq := .running .monitor 7#64, port := [.powerOnReset, .transaction 0#53] }
    s.port = .powerOnReset :: [.transaction 0#53] := by decide

theorem witness_ResetReadsZero : (0x010#18 : Addr) ≠ 0x000#18 ∧ (0x010#18 : Addr) ≠ 0x004#18 ∧
    (0x010#18 : Addr) ≠ 0x008#18 ∧ (0x010#18 : Addr) ≠ 0x00C#18 := by decide

/-- Transform 0 is the target of no running limp machine at reset, and is not one where monitor 0's target is 1. -/
theorem witness_StepWritesOnlyListedState :
    (∀ k, monValid State.reset (monAt State.reset k) = true → limpRuns State.reset (monAt State.reset k) = true →
      (monAt State.reset k).target.toNat ≠ 0) ∧
    (let s := cfg [(0x8000, 0x105), (0x8008, 1), (0x801C, 1)]
     monValid s (monAt s 0) = true ∧ limpRuns s (monAt s 0) = true ∧ (monAt s 0).target.toNat ≠ 0) := by
  refine ⟨fun k hk => ?_, by decide⟩
  have h : ∀ (l : List Monitor), (∀ m ∈ l, m = Monitor.zero) → l.getD k Monitor.zero = Monitor.zero := by
    intro l hl
    rw [List.getD_eq_getElem?_getD]
    rcases hm : l[k]? with _ | m
    · rfl
    · exact hl m (List.mem_of_getElem? hm)
  rw [show monAt State.reset k = Monitor.zero from h _ (by decide)] at hk
  exact absurd hk (by decide)

theorem witness_SequencerRefinesStep :
    let s : State := { State.reset with port := [.transaction 0#53] }
    s.port.head? ≠ some .powerOnReset ∧ ∃ t, exec .step s = .next t := ⟨by decide, _, rfl⟩

theorem witness_NoStepStops : State.reset.port.head? ≠ some .powerOnReset := by decide

/-- A phase, and a merge entry. -/
theorem witness_TransactionsHeldDuringStep :
    (let s : State := { State.reset with seq := .running .cyclic 7#64, port := [.transaction 0#53] }
     s.seq = .running .cyclic 7#64 ∧ s.port.head? ≠ some .powerOnReset) ∧
    (let s : State := { State.reset with seq := .running (.merge 0) 7#64, port := [.transaction 0#53] }
     s.seq = .running (.merge 0) 7#64 ∧ s.port.head? ≠ some .powerOnReset) := by decide

/-- The first id out of range and the last one in range. -/
theorem witness_IngestWritesOneSignal : State.reset.sigs.length ≤ (ev 16 7 .ok 10).id.toNat ∧
    (ev 15 7 .ok 10).id.toNat < State.reset.sigs.length := by decide

theorem witness_LastEventOfSignalWins :
    let s : State := { State.reset with fifo := [ev 15 7 .ok 1, ev 15 9 .error 2, ev 4 1 .ok 3] }
    s.fifo = [ev 15 7 .ok 1] ++ ev 15 9 .error 2 :: [ev 4 1 .ok 3] ∧ (ev 15 9 .error 2).id.toNat < s.sigs.length ∧
    ∀ e' ∈ [ev 4 1 .ok 3], e'.id ≠ (ev 15 9 .error 2).id := by decide

/-- A full wake buffer and two queued events: one whose value leaves the monitor's range, and one in whose range it is. -/
theorem witness_FastPathRecordsInOrder :
    let s : State := { cfg [(0x8000, 0x15), (0x8004, 4), (0x8008, 5), (0x8014, 5000)] with
      wakes := List.replicate 4 ⟨0#8, 0#32, 0#32, false⟩, fifo := [ev 4 5001 .ok 0, ev 4 5000 .ok 0] }
    (∀ e ∈ s.fifo, e.id.toNat < s.sigs.length) ∧ s.wakes.length ≤ s.maxWake ∧
    (monAt s 0).maxV.toInt < (ev 4 5001 .ok 0).value.toInt ∧ ¬ (monAt s 0).maxV.toInt < (ev 4 5000 .ok 0).value.toInt := by
  decide

/-- Age equal to the threshold, one more, and a signal already TIMEOUT. -/
theorem witness_StalenessScan :
    ¬ (100#32 : Word).toNat < (9100#64 : U64).toNat - (9000#64 : U64).toNat ∧
    (100#32 : Word).toNat < (9101#64 : U64).toNat - (9000#64 : U64).toNat := by decide

/-- The hypotheses of the five METHOD statements that write a result, with one, two and three valid inputs. -/
theorem witness_MethodWrites : ∀ vs ∈ ([[5], [5, 9], [10, 10, 30]] : List (List Int)),
    let s := atMerge 0 vs
    s.seq = .running (.merge 0) 1000#64 ∧ s.mrgs[0]? = some (mrgAt s 0) ∧ (mrgAt s 0).outId.toNat < s.sigs.length ∧
    (mrgAt s 0).outId ∉ usedSlots (BitVec.ofNat 4 vs.length) (mrgAt s 0) ∧
    validInputs s (BitVec.ofNat 4 vs.length) (mrgAt s 0) = vs ∧ vs ≠ [] := by decide

theorem witness_MergeWithoutInputsIsError :
    let s := withSig 0 5 .timeout (atMerge 0 [5])
    s.seq = .running (.merge 0) 1000#64 ∧ s.mrgs[0]? = some (mrgAt s 0) ∧ (mrgAt s 0).outId.toNat < s.sigs.length ∧
    (mrgAt s 0).outId ∉ usedSlots 1#4 (mrgAt s 0) ∧ validInputs s 1#4 (mrgAt s 0) = [] ∧
    validInputs s 0#4 (mrgAt s 0) = [] := by decide

/-- Each ground for a skip by itself: EN 0, METHOD 5, output 16, output among the slots in use (METHOD 4, NIN 1); for the
reserved rows an entry with no other ground. -/
theorem witness_SkippedMergeWritesNothing :
    (let s := cfg [(0x4000, 0x100), (0x4004, 3)]; s.mrgs[0]? = some (mrgAt s 0) ∧ (mrgAt s 0).en = false) ∧
    (let s := cfg [(0x4000, 0x151), (0x4004, 3)]; s.mrgs[0]? = some (mrgAt s 0) ∧ 5 ≤ (mrgAt s 0).method.toNat) ∧
    (let s := cfg [(0x4000, 0x141), (0x4004, 16)]; s.mrgs[0]? = some (mrgAt s 0) ∧ s.sigs.length ≤ (mrgAt s 0).outId.toNat) ∧
    (let s := cfg [(0x4000, 0x141), (0x4004, 3), (0x4010, 3)]
     s.mrgs[0]? = some (mrgAt s 0) ∧ (mrgAt s 0).outId ∈ usedSlots (mrgAt s 0).nin (mrgAt s 0)) ∧
    (let s : State := { cfg [(0x4004, 16)] with seq := .running (.merge 0) 5#64 }
     s.seq = .running (.merge 0) 5#64 ∧ s.mrgs[0]? = some (mrgAt s 0) ∧ s.sigs.length ≤ (mrgAt s 0).outId.toNat) ∧
    (let s := atMerge 0 [5]; s.seq = .running (.merge 0) 1000#64 ∧ s.mrgs[0]? = some (mrgAt s 0) ∧
     ¬ s.sigs.length ≤ (mrgAt s 0).outId.toNat ∧ (mrgAt s 0).outId ∉ usedSlots 1#4 (mrgAt s 0)) := by decide

/-- An idle sequencer, and an index just past the merge table. -/
theorem witness_SelectorActsInPhase3Only :
    (∀ m n, State.reset.seq = .running (.merge m) n → State.reset.mrgs[m]? = none) ∧
    (let s : State := { State.reset with seq := .running (.merge 4) 5#64 }
     ∀ m n, s.seq = .running (.merge m) n → s.mrgs[m]? = none) := by
  refine ⟨fun m n h => (by cases h), fun m n h => ?_⟩
  cases h; decide

/-- Spread 4 against TOL 3 and TOL 4. -/
theorem witness_ToleranceOverrideBySpread :
    (1 < ([5, 9] : List Int).length ∧ 0 < 3 ∧ ∃ x ∈ ([5, 9] : List Int), ∃ y ∈ ([5, 9] : List Int), ((3 : Nat) : Int) < x - y) ∧
    ¬ (1 < ([5, 9] : List Int).length ∧ 0 < 4 ∧
      ∃ x ∈ ([5, 9] : List Int), ∃ y ∈ ([5, 9] : List Int), ((4 : Nat) : Int) < x - y) := by decide

/-- Both ends of the `i32` range. -/
theorem witness_VoteResultFitsInRange : ([-2147483648, 2147483647] : List Int) ≠ [] ∧
    ∀ x ∈ ([-2147483648, 2147483647] : List Int), -2 ^ 31 ≤ x ∧ x < 2 ^ 31 := by decide

theorem witness_VoteIgnoresSlotOrder : ([1, 2, 2] : List Int).Perm [2, 1, 2] := by decide

theorem witness_MajorityIsOkWithinSpread : ([10, 11, 50] : List Int) ≠ [] ∧ 0 < 1 ∧
    (tolOverride (voteMajority [10, 11, 50] 40).2 [10, 11, 50] 40 = .ok) ∧
    (tolOverride (voteMajority [10, 11, 50] 39).2 [10, 11, 50] 39 = .inconsistent) := by decide

/-- A merge that runs, whose output is signal 3 and not signal 2; and the engine at it. -/
theorem witness_MergePhaseWritesOutputsOnly :
    let s := cfg [(0x4000, 0x141), (0x4004, 3)]
    mergeRuns s (mrgAt s 0) = true ∧ (∀ e ∈ s.mrgs, mergeRuns s e = true → e.outId.toNat ≠ 2) ∧
    (let u : State := { s with seq := .running (.merge 0) 7#64 }
     u.seq = .running (.merge 0) 7#64 ∧ u.mrgs[0]? = some (mrgAt u 0)) := by decide

/-- Each ground for an invalid monitor by itself, not enabled, WATCH 16, FOUT 16, FOUT = WATCH; and a valid one. -/
theorem witness_OnlyValidMonitorsAct :
    monValid State.reset (monAt State.reset 0) = false ∧
    (let s := cfg [(0x8000, 1), (0x8004, 16)]; s.sigs.length ≤ (monAt s 0).watch.toNat ∧ monValid s (monAt s 0) = false) ∧
    (let s := cfg [(0x8000, 1), (0x8008, 16)]; s.sigs.length ≤ (monAt s 0).fout.toNat ∧ monValid s (monAt s 0) = false) ∧
    (let s := cfg [(0x8000, 1), (0x8004, 15), (0x8008, 15)]
     (monAt s 0).fout = (monAt s 0).watch ∧ monValid s (monAt s 0) = false) ∧
    (let s := cfg [(0x8000, 1), (0x8004, 15), (0x8008, 14)]
     (monAt s 0).ctrl.en = true ∧ (monAt s 0).watch.toNat < s.sigs.length ∧ (monAt s 0).fout.toNat < s.sigs.length ∧
     (monAt s 0).fout ≠ (monAt s 0).watch) := by decide

/-- The last monitor, valid, with and without a fault. -/
theorem witness_FaultOutputFromTriggers :
    let s := cfg [(0x8180, 5), (0x8184, 15), (0x8188, 14), (0x8194, 10), (0x201E0, 11)]
    monValid s (monAt s 3) = true ∧ faultOf 0#64 s 3 = true ∧
    faultOf 0#64 (cfg [(0x8180, 5), (0x8184, 15), (0x8188, 14), (0x8194, 10), (0x201E0, 10)]) 3 = false := by decide

/-- A rising fault with both enables, with room and without; and a fault that was there before. -/
theorem witness_CycleWakeOnRisingFault :
    let s := cfg [(0x8000, 0x35), (0x8008, 1), (0x8014, 10), (0x20000, 11)]
    monValid s (monAt s 0) = true ∧ (monAt s 0).ctrl.cycWakeEn = true ∧ (monAt s 0).ctrl.wakeEn = true ∧
    faultOf 0#64 s 0 = true ∧ (monAt s 0).faultActive = false ∧ s.wakes.length < s.maxWake ∧
    (let u : State := { s with wakes := List.replicate 4 ⟨0#8, 0#32, 0#32, false⟩ }
     monValid u (monAt u 0) = true ∧ ¬ u.wakes.length < u.maxWake) ∧
    (monAt (faultMemory 0 true s) 0).faultActive = true := by decide

/-- A valid monitor whose limp machine runs, on transform 3, with a fault if `v` is over 10, in LIMP since 5 ms if `l`. -/
def limpState (v : Nat) (l : Bool) : State :=
  let s := cfg [(0x8000, 0x305), (0x8008, 1), (0x8014, 10), (0x801C, 3), (0x802C, 2), (0x20000, v)]
  setMon s 0 { monAt s 0 with limpActive := l, fctMs := 5#64 }

/-- Another monitor. One state a line of the table: NORMAL with and without a fault; LIMP with a fault, held at 6 ms, restored at 7 ms. And
the frozen machine, at TARGET 4. -/
theorem witness_LimpHomeTransitions :
    (1 : Nat) ≠ 0 ∧ (∀ v ∈ [10, 11], ∀ l ∈ [false, true], let s := limpState v l
      monValid s (monAt s 0) = true ∧ (monAt s 0).ctrl.limpEn = true ∧ (monAt s 0).target.toNat < s.xfs.length ∧
      (monAt s 0).limpActive = l ∧ faultOf 6000#64 s 0 = decide (10 < v)) ∧
    ¬ (monAt (limpState 10 true) 0).restoreMs.toNat ≤ (6999#64 : U64).toNat / 1000 - (monAt (limpState 10 true) 0).fctMs.toNat ∧
    (monAt (limpState 10 true) 0).restoreMs.toNat ≤ (7000#64 : U64).toNat / 1000 - (monAt (limpState 10 true) 0).fctMs.toNat ∧
    (let s := cfg [(0x8000, 0x305), (0x8008, 1), (0x801C, 4)]
     monValid s (monAt s 0) = true ∧ ¬ (monAt s 0).target.toNat < s.xfs.length) := by decide

/-- Delay 2 ms from a pass at 5.999 ms: held at 5.999 and 6.999 ms, restored at 7 ms; the pass with the fault is an entry
into LIMP, or finds the machine there. -/
theorem witness_HysteresisHoldsThenRestores : ∀ l ∈ [false, true],
    let s := limpState 11 l
    0 < s.mons.length ∧ limpRuns s (monAt s 0) = true ∧ (monAt s 0).limpActive = l ∧
    (∀ n ∈ ([5999, 6999] : List Nat),
      (BitVec.ofNat 64 n).toNat / 1000 - (5999#64 : U64).toNat / 1000 < (monAt s 0).restoreMs.toNat) ∧
    (monAt s 0).restoreMs.toNat ≤ (7000#64 : U64).toNat / 1000 - (5999#64 : U64).toNat / 1000 := by decide

/-- A transform that may run and signal 2 that it may not write, in the build of the default and in one of a supplied
`XFORM`. -/
theorem witness_TransformContract :
    let s := cfg [(0x12000, 1), (0x12008, 1)]
    let u : State := { s with xform := .supplied 3 }
    s.xform = .identity ∧ u.xform = .supplied 3 ∧ xfAt u 0 ∈ u.xfs ∧ (xfAt u 0).en = true ∧
    (xfAt u 0).inId.toNat < u.sigs.length ∧ (xfAt u 0).outId.toNat < u.sigs.length ∧ (xfAt u 0).outId ≠ (xfAt u 0).inId ∧
    ∀ x ∈ u.xfs, x.en = true → x.inId.toNat < u.sigs.length → x.outId.toNat < u.sigs.length → x.outId ≠ x.inId →
      x.outId.toNat ≠ 2 := by decide

/-- Disabled; `SRC` 16; due one microsecond later; due now. -/
theorem witness_CyclicEntryFires :
    (cycAt State.reset 0).period = 0#32 ∧
    (let s := cfg [(0x10000, 16), (0x10008, 5)]; s.sigs.length ≤ (cycAt s 0).src.toNat) ∧
    (let s := cfg [(0x10008, 5), (0x10010, 100)]
     (99#64 : U64).toNat < (cycAt s 0).dl.toNat ∧ ¬ (100#64 : U64).toNat < (cycAt s 0).dl.toNat) := by decide

/-- A full output buffer, with an entry that is due, and one a microsecond before its deadline. -/
theorem witness_LowerEntriesWinOutputSlots :
    let s : State := { cfg [(0x10008, 5), (0x10010, 100)] with outs := List.replicate 4 ⟨0#32, 0#32, 0#64⟩ }
    s.outs.length ≤ s.maxOutputEvents ∧ (cycAt s 0).period ≠ 0#32 ∧ (cycAt s 0).src.toNat < s.sigs.length ∧
    (cycAt s 0).dl.toNat ≤ (100#64 : U64).toNat ∧ ¬ (cycAt s 0).dl.toNat ≤ (99#64 : U64).toNat := by decide

/-- Disabled by the period and by `SRC` 16; enabled, with a deadline not reached and reached. -/
theorem witness_DeadlinesNeverDrift :
    (cycAt State.reset 0).period = 0#32 ∧
    (let s := cfg [(0x10000, 16), (0x10008, 5)]
     (cycAt s 0).period ≠ 0#32 ∧ s.sigs.length ≤ (cycAt s 0).src.toNat) ∧
    (let s := cfg [(0x10000, 15), (0x10008, 5), (0x10010, 100)]
     ¬ ((cycAt s 0).period = 0#32 ∨ s.sigs.length ≤ (cycAt s 0).src.toNat) ∧
     ¬ (cycAt s 0).dl.toNat % 2 ^ 64 ≤ (99#64 : U64).toNat ∧ (cycAt s 0).dl.toNat % 2 ^ 64 ≤ (100#64 : U64).toNat) := by
  decide

theorem witness_EveryStepKeepsInvariant :
    let s : State := { State.reset with port := [.transaction 0x18001000000002#53] }
    s.Inv ∧ ∃ t, step s = .next t := ⟨by decide, _, rfl⟩

/-- The least and the greatest legal build. -/
theorem witness_ResetMeetsInvariant : (⟨1, 1, 0, 0, 0, 0, 1, 1, .identity⟩ : Params).legal ∧
    (⟨4096, 65535, 255, 255, 255, 255, 256, 256, .supplied 0⟩ : Params).legal := by decide

/-- Each flag set: by a reserved command, a push into a full FIFO, a step with a fast-path wake, one with five. -/
theorem witness_StickyFlagsSet :
    (∃ t, exec (.cmdReserved 5#32) State.reset = .next t ∧ State.reset.status.cmdErr = false ∧ t.status.cmdErr = true) ∧
    (let s : State := { State.reset with fifo := List.replicate 8 (ev 0 0 .ok 0) }
     ∃ t, exec .evtPush s = .next t ∧ s.status.evtOvf = false ∧ t.status.evtOvf = true) ∧
    (let s : State := { cfg [(0x8000, 0x15), (0x8004, 4), (0x8008, 5)] with fifo := List.replicate 5 (ev 4 1 .ok 0) }
     ∃ t, exec .step s = .next t ∧ s.status = Flags.zero ∧ t.status.wakePend = true ∧ t.status.wakeOvf = true) :=
  ⟨⟨_, rfl, by decide, by decide⟩, ⟨_, rfl, by decide, by decide⟩, ⟨_, rfl, by decide, by decide, by decide⟩⟩

/-- E-2: a write of IRQ_EN with WAKE_PEND set raises the interrupt at once; without it, or with WAKE_IE 0, there is none. -/
theorem witness_InterruptLevel :
    let s : State := { State.reset with status := ⟨false, true, false, false⟩ }
    irqWake s = false ∧ irqWake { State.reset with wakeIe := true } = false ∧
    (∃ t, exec (.busWrite 0x018#18 1#32) s = .next t ∧ irqWake t = true) ∧
    (∃ t, exec (.busWrite 0x018#18 0xFFFFFFFE#32) { s with wakeIe := true } = .next t ∧ irqWake t = false) :=
  ⟨by decide, by decide, ⟨_, rfl, by decide⟩, ⟨_, rfl, by decide⟩⟩

/-- Every flag cleared, by STATUS_W1C and by INIT. -/
theorem witness_StickyFlagsCleared :
    let s : State := { State.reset with status := ⟨true, true, true, true⟩, wakeIe := true }
    irqWake s = true ∧ (15#32 : Word).getLsbD 1 = true ∧
    (∃ t, exec (.statusW1c 15#32) s = .next t ∧ t.status = Flags.zero) ∧
    (∃ t, exec .init s = .next t ∧ t.status = Flags.zero) :=
  ⟨by decide, by decide, ⟨_, rfl, by decide⟩, ⟨_, rfl, by decide⟩⟩

/-- NOW changed by a write of either word, and by INIT. -/
theorem witness_OnlyHostWritesNow :
    (∃ t, exec (.busWrite 0x020#18 5#32) State.reset = .next t ∧ t.now ≠ State.reset.now) ∧
    (∃ t, exec (.busWrite 0x024#18 5#32) State.reset = .next t ∧ t.now ≠ State.reset.now) ∧
    (∃ t, exec .init (cfg [(0x020, 5)]) = .next t ∧ t.now ≠ (cfg [(0x020, 5)]).now) :=
  ⟨⟨_, rfl, by decide⟩, ⟨_, rfl, by decide⟩, ⟨_, rfl, by decide⟩⟩

/-- Signal 3 is a merge's output; an event for another signal waits. -/
theorem witness_SingleWriterSparesOutputs :
    let s : State := { cfg [(0x4000, 0x101), (0x4004, 3), (0x4010, 0)] with fifo := [ev 0 1 .ok 0] }
    singleWriter s = true ∧ (3#16 : SigId).toNat < s.sigs.length ∧ writersOf s 3#16 ≠ [] := by decide

end Sys2Proof.Tests
end

