-- ==== Sys2Proof/Proofs/State.lean ====
section
/-! Bus accesses of a named word, the capability fields, and the status fields of the two words that hold one
(10_state.md; 40_host_interface.md R131, R132). -/

namespace Sys2Proof.Machine

/-! ### A bus access of a named word -/

/-- The address map on the control page, whatever the build (10_state.md section 1). -/
theorem regAt_control (p : Params) {a : Addr} {r : Reg} (ha : a.toNat < 0x1000) (hr : controlAt a.toNat = some r) :
    regAt p a = some r := by
  simp [regAt, ha, hr]

/-- BUS_READ of a named word responds the word and changes nothing else (40_host_interface.md R131). -/
theorem exec_busRead_of {s : State} {a : Addr} {r : Reg} (h : regAt s.params a = some r) (data : Word) :
    exec (.busRead a data) s = .next { s with resp := .ok (some (readReg s r)) } := by
  rw [← readWord_of h]; rfl

/-- BUS_WRITE of a named word is the write of the word, and an OK response (40_host_interface.md R132). -/
theorem exec_busWrite_of {s : State} {a : Addr} {r : Reg} (h : regAt s.params a = some r) (data : Word) :
    exec (.busWrite a data) s = .next (respond (writeReg s data r) (.ok none)) := by
  rw [← writeWord_of data h]; rfl

/-- BUS_WRITE of a read-only word changes nothing but the response (40_host_interface.md R132). -/
theorem exec_busWrite_readOnly {s : State} {a : Addr} {r : Reg} (h : regAt s.params a = some r)
    (hr : readOnlyWord r = true) (data : Word) : exec (.busWrite a data) s = .next { s with resp := .ok none } := by
  rw [exec_busWrite_of h, writeReg_readOnly s data hr]; rfl

/-- What a named word reads after a BUS_WRITE of it is what the register write leaves there. -/
theorem readWord_written {s : State} {a : Addr} {r : Reg} (h : regAt s.params a = some r) (data : Word) (x : BusResp) :
    readWord (respond (writeReg s data r) x) a = readReg (writeReg s data r) r := by
  rw [readWord_respond, readWord_of]
  rwa [writeReg_params]

/-! ### The capability words, field by field -/

/-- A capacity that fits its field is the field's value. -/
theorem toNat_capField {n w : Nat} (h : n < 2 ^ w) : (BitVec.ofNat w n).toNat = n := by
  rw [BitVec.toNat_ofNat, Nat.mod_eq_of_lt h]

/-- Bits above the low byte of a concatenation are bits of its upper part. -/
theorem extractLsb'_append_byte {m : Nat} (x : BitVec m) (b : BitVec 8) (k : Nat) :
    (x ++ b).extractLsb' (k + 8) 8 = x.extractLsb' k 8 := by
  rw [BitVec.extractLsb'_append_eq_of_le (Nat.le_add_left 8 k), Nat.add_sub_cancel]

/-- The four fields of a word of bytes. -/
theorem bytes_fields (b3 b2 b1 b0 : BitVec 8) :
    (b3 ++ b2 ++ b1 ++ b0).extractLsb' 0 8 = b0 ∧ (b3 ++ b2 ++ b1 ++ b0).extractLsb' 8 8 = b1 ∧
    (b3 ++ b2 ++ b1 ++ b0).extractLsb' 16 8 = b2 ∧ (b3 ++ b2 ++ b1 ++ b0).extractLsb' 24 8 = b3 := by
  refine ⟨BitVec.extractLsb'_append_eq_right, ?_, ?_, ?_⟩
  · rw [extractLsb'_append_byte _ b0 0, BitVec.extractLsb'_append_eq_right]
  · rw [extractLsb'_append_byte _ b0 8, extractLsb'_append_byte _ b1 0, BitVec.extractLsb'_append_eq_right]
  · rw [extractLsb'_append_byte _ b0 16, extractLsb'_append_byte _ b1 8, BitVec.extractLsb'_append_eq_left]

/-- `CAPS_SIG` of a legal build (10_state.md R24). -/
theorem capsSigWord_fields {p : Params} (hp : p.legal) :
    ((capsSigWord p).extractLsb' 0 16).toNat = p.maxSignals ∧
    ((capsSigWord p).extractLsb' 16 16).toNat = p.maxEvents := by
  obtain ⟨⟨-, hsig⟩, ⟨-, hevt⟩, -⟩ := hp
  rw [capsSigWord, BitVec.extractLsb'_append_eq_right, BitVec.extractLsb'_append_eq_left]
  exact ⟨toNat_capField (by omega), toNat_capField (by omega)⟩

/-- `CAPS_TBL` of a legal build (10_state.md R25). -/
theorem capsTblWord_fields {p : Params} (hp : p.legal) :
    ((capsTblWord p).extractLsb' 0 8).toNat = p.maxMerges ∧
    ((capsTblWord p).extractLsb' 8 8).toNat = p.maxMonitors ∧
    ((capsTblWord p).extractLsb' 16 8).toNat = p.maxCyclic ∧
    ((capsTblWord p).extractLsb' 24 8).toNat = p.maxTransforms := by
  obtain ⟨-, -, hmrgs, hmons, hcycs, hxfs, -⟩ := hp
  obtain ⟨h0, h1, h2, h3⟩ := bytes_fields (BitVec.ofNat 8 p.maxTransforms) (BitVec.ofNat 8 p.maxCyclic)
    (BitVec.ofNat 8 p.maxMonitors) (BitVec.ofNat 8 p.maxMerges)
  rw [capsTblWord, h0, h1, h2, h3]
  exact ⟨toNat_capField (by omega), toNat_capField (by omega), toNat_capField (by omega), toNat_capField (by omega)⟩

/-- `CAPS_BUF` of a legal build (10_state.md R26). -/
theorem capsBufWord_fields {p : Params} (hp : p.legal) :
    ((capsBufWord p).extractLsb' 0 16).toNat = p.maxOutputEvents ∧
    ((capsBufWord p).extractLsb' 16 16).toNat = p.maxWake := by
  obtain ⟨-, -, -, -, -, -, ⟨-, hout⟩, -, hwake⟩ := hp
  rw [capsBufWord, BitVec.extractLsb'_append_eq_right, BitVec.extractLsb'_append_eq_left]
  exact ⟨toNat_capField (by omega), toNat_capField (by omega)⟩

/-! ### The capacities are constant over every step -/

/-- A selector and the sequencer's move after it keep the capacities. -/
theorem afterSelector_params {i : Instr} {s t : State} (h : afterSelector (exec i s) = .next t) :
    t.params = s.params := by
  obtain ⟨u, hu⟩ := exec_total i s
  rw [hu] at h
  cases h
  exact (advanceSeq_params u).trans (exec_params i s u hu)

/-- No step changes the capacities (10_state.md R24 to R26). -/
theorem step_params {s t : State} (h : step s = .next t) : t.params = s.params := by
  obtain ⟨rest, -, hstep⟩ | ⟨w, rest, -, -, hstep⟩ | ⟨-, -, hstep⟩ | ⟨m, n, e, -, -, -, hstep⟩ | ⟨m, n, -, -, -, hstep⟩ |
    ⟨p, n, -, -, -, hstep⟩ := step_cases s <;> rw [hstep] at h
  · cases h; exact resetAll_params _
  · exact (exec_params _ _ _ h).trans rfl
  · cases h; rfl
  · exact afterSelector_params h
  · cases h; exact advanceSeq_params s
  · cases h; exact (advanceSeq_params _).trans (runPhase_params p n s)

/-! ### Status fields -/

/-- A written status code is stored as it is, and 6 and 7 as ERROR (10_state.md R39, 30_encoding.md R107). -/
theorem statusCode_statusField (w : Word) :
    statusCode (statusField w) = if (w.extractLsb' 0 3).toNat ≤ 5 then w.extractLsb' 0 3 else 3#3 :=
  (by decide : ∀ c : BitVec 3, statusCode (statusOfCode c) = if c.toNat ≤ 5 then c else 3#3) _

/-- EVT_STATUS reads the code, the bits above the field 0 (10_state.md R32). -/
theorem statusWord_eq (st : Status) : statusWord st = (statusCode st).setWidth 32 := by cases st <;> rfl

/-- SIG_STATUS reads the code and `updated` at bit 8, the other bits 0 (10_state.md R38). -/
theorem sigStatusWord_eq (g : Signal) :
    sigStatusWord g = (statusCode g.status).setWidth 32 ||| (if g.updated then 0x100#32 else 0#32) := by
  unfold sigStatusWord
  cases g.status <;> cases g.updated <;> rfl

/-! ### The statements -/

/-- Settles O9: the word stands at 0x000 of every build and is read-only. -/
theorem identityRegisterConstant : Obligations.IdentityRegisterConstant := by
  intro s data
  have hid : regAt s.params 0x000#18 = some .lqeId := regAt_control _ (by decide) rfl
  exact ⟨exec_busRead_of hid data, exec_busWrite_readOnly hid rfl data⟩

/-- Settles O10: three read-only words of the control page, whose fields hold the capacities a legal build can have, and
the capacities constant by the six moves of a step. -/
theorem capabilityRegisters : Obligations.CapabilityRegisters := by
  have hsig : ∀ p, regAt p 0x004#18 = some .capsSig := fun p => regAt_control p (by decide) rfl
  have htbl : ∀ p, regAt p 0x008#18 = some .capsTbl := fun p => regAt_control p (by decide) rfl
  have hbuf : ∀ p, regAt p 0x00C#18 = some .capsBuf := fun p => regAt_control p (by decide) rfl
  refine ⟨fun s data hp => ?_, fun s data => ?_, fun s t => step_params⟩
  · obtain ⟨hsignals, hevents⟩ := capsSigWord_fields hp
    obtain ⟨hmerges, hmonitors, hcyclic, htransforms⟩ := capsTblWord_fields hp
    obtain ⟨houtputs, hwakes⟩ := capsBufWord_fields hp
    exact ⟨_, _, _, exec_busRead_of (hsig _) data, exec_busRead_of (htbl _) data, exec_busRead_of (hbuf _) data,
      hsignals, hevents, hmerges, hmonitors, hcyclic, htransforms, houtputs, hwakes⟩
  · exact ⟨exec_busWrite_readOnly (hsig _) rfl data, exec_busWrite_readOnly (htbl _) rfl data,
      exec_busWrite_readOnly (hbuf _) rfl data⟩

/-- Settles O15: a write of either word stores `statusField` of the data, which keeps the six legal codes, and each word
reads the code it holds. -/
theorem statusFieldsAreWarl : Obligations.StatusFieldsAreWarl := by
  refine ⟨by decide, fun s data hp => ⟨?_, fun i hi => ?_⟩⟩ <;> rw [← statusCode_statusField data]
  · have hat : regAt s.params 0x038#18 = some .evtStatus := regAt_control _ (by decide) rfl
    exact ⟨_, exec_busWrite_of hat data, rfl, (readWord_written hat data _).trans (statusWord_eq _)⟩
  · have hat : regAt s.params (addrOf (.sig i .status)) = some (.sig i .status) :=
      regAt_addrOf hp ((regExists_sig s i .status).mpr hi)
    have hsig : sigAt (writeReg s data (.sig i .status)) i = { sigAt s i with status := statusField data } :=
      sigAt_setSig_self s i _ hi
    refine ⟨_, exec_busWrite_of hat data, ?_, ?_, ?_⟩
    · rw [sigAt_respond, hsig]
    · rw [sigAt_respond, hsig]
    · rw [readWord_written hat, readReg, hsig]
      exact sigStatusWord_eq _

end Sys2Proof.Machine
end

