-- ==== Sys2Proof/Proofs/Encoding.lean ====
section
/-! The decoder line by line (30_encoding.md R103), and a written MRG_CTRL word: what the entry holds, what the merge engine
fetches from it, and the reserved methods (R108 to R110). -/

namespace Sys2Proof

/-! ### The lines of the decoder -/

section
variable (write : Bool) (addr : Addr) (data : Word)

theorem decodeTransaction_size0 : decodeTransaction (mkTxn write 0#2 addr data) = .busErrorSize0 write addr data := by
  simp [decodeTransaction]

theorem decodeTransaction_size1 : decodeTransaction (mkTxn write 1#2 addr data) = .busErrorSize1 write addr data := by
  simp [decodeTransaction]

theorem decodeTransaction_size2 : decodeTransaction (mkTxn write 2#2 addr data) = decodeWordAccess write addr data := by
  simp [decodeTransaction]

theorem decodeTransaction_size3 : decodeTransaction (mkTxn write 3#2 addr data) = .busErrorSize3 write addr data := by
  simp [decodeTransaction]

variable {addr}

theorem decodeWordAccess_misaligned1 (h : addr.extractLsb' 0 2 = 1#2) :
    decodeWordAccess write addr data = .busErrorMisaligned1 write addr data := by
  rw [decodeWordAccess, h]; rfl

theorem decodeWordAccess_misaligned2 (h : addr.extractLsb' 0 2 = 2#2) :
    decodeWordAccess write addr data = .busErrorMisaligned2 write addr data := by
  rw [decodeWordAccess, h]; rfl

theorem decodeWordAccess_misaligned3 (h : addr.extractLsb' 0 2 = 3#2) :
    decodeWordAccess write addr data = .busErrorMisaligned3 write addr data := by
  rw [decodeWordAccess, h]; rfl

theorem decodeWordAccess_read (h : addr.extractLsb' 0 2 = 0#2) :
    decodeWordAccess false addr data = .busRead addr data := by
  rw [decodeWordAccess, h]; rfl

theorem decodeWordAccess_command : decodeWordAccess true 0x010#18 data = decodeCommand data := rfl

theorem decodeWordAccess_status : decodeWordAccess true 0x014#18 data = .statusW1c data := rfl

theorem decodeWordAccess_write (h : addr.extractLsb' 0 2 = 0#2) (hcmd : addr ≠ 0x010#18) (hstatus : addr ≠ 0x014#18) :
    decodeWordAccess true addr data = .busWrite addr data := by
  rw [decodeWordAccess, h]; simp [hcmd, hstatus]

/-- A wrong size or alignment decodes to a BUS_ERROR row, the first line of the priority (30_encoding.md R103). -/
theorem decodeTransaction_busError {size : BitVec 2} (h : size ≠ 2#2 ∨ addr.extractLsb' 0 2 ≠ 0#2) :
    let i := decodeTransaction (mkTxn write size addr data)
    i = .busErrorSize0 write addr data ∨ i = .busErrorSize1 write addr data ∨ i = .busErrorSize3 write addr data ∨
    i = .busErrorMisaligned1 write addr data ∨ i = .busErrorMisaligned2 write addr data ∨
    i = .busErrorMisaligned3 write addr data := by
  obtain rfl | rfl | rfl | rfl := two_bits size
  · simp [decodeTransaction_size0]
  · simp [decodeTransaction_size1]
  · rw [decodeTransaction_size2]
    obtain ha | ha | ha | ha := two_bits (addr.extractLsb' 0 2)
    · simp [ha] at h
    · simp [decodeWordAccess_misaligned1 write data ha]
    · simp [decodeWordAccess_misaligned2 write data ha]
    · simp [decodeWordAccess_misaligned3 write data ha]
  · simp [decodeTransaction_size3]

/-- The last three lines of the priority: the command, the read, the write (30_encoding.md R103). -/
theorem decodeWordAccess_aligned (h : addr.extractLsb' 0 2 = 0#2) :
    decodeWordAccess write addr data =
      if write = true ∧ addr = 0x010#18 then decodeCommand data
      else if write = false then .busRead addr data
      else if addr = 0x014#18 then .statusW1c data else .busWrite addr data := by
  cases write with
  | false => simp [decodeWordAccess_read data h]
  | true =>
    by_cases hcmd : addr = 0x010#18
    · simp [hcmd, decodeWordAccess_command]
    by_cases hstatus : addr = 0x014#18
    · simp [hstatus, decodeWordAccess_status]
    · simp [hcmd, hstatus, decodeWordAccess_write data h hcmd hstatus]

variable (addr)

/-- A decoded word access is well-formed and encodes to its transaction (30_encoding.md R103). -/
theorem decodeWordAccess_spec : (decodeWordAccess write addr data).wellFormed = true ∧
    encode (decodeWordAccess write addr data) = .transaction (mkTxn write 2#2 addr data) := by
  obtain h | h | h | h := two_bits (addr.extractLsb' 0 2)
  · cases write with
    | false => rw [decodeWordAccess_read data h]; simp [Instr.wellFormed, encode, h]
    | true =>
      by_cases hcmd : addr = 0x010#18
      · rw [hcmd, decodeWordAccess_command]; exact decodeCommand_spec data
      by_cases hstatus : addr = 0x014#18
      · rw [hstatus, decodeWordAccess_status]; exact ⟨rfl, rfl⟩
      · rw [decodeWordAccess_write data h hcmd hstatus]; simp [Instr.wellFormed, encode, h, hcmd, hstatus]
  · rw [decodeWordAccess_misaligned1 write data h]; simp [Instr.wellFormed, encode, h]
  · rw [decodeWordAccess_misaligned2 write data h]; simp [Instr.wellFormed, encode, h]
  · rw [decodeWordAccess_misaligned3 write data h]; simp [Instr.wellFormed, encode, h]

/-- The same for every size (30_encoding.md R103). -/
theorem decodeTransaction_mkTxn_spec (size : BitVec 2) :
    (decodeTransaction (mkTxn write size addr data)).wellFormed = true ∧
    encode (decodeTransaction (mkTxn write size addr data)) = .transaction (mkTxn write size addr data) := by
  obtain rfl | rfl | rfl | rfl := two_bits size
  · rw [decodeTransaction_size0]; exact ⟨rfl, rfl⟩
  · rw [decodeTransaction_size1]; exact ⟨rfl, rfl⟩
  · rw [decodeTransaction_size2]; exact decodeWordAccess_spec write addr data
  · rw [decodeTransaction_size3]; exact ⟨rfl, rfl⟩

end

/-! ### Every transaction -/

/-- Settles O2: the four lines by the two low address bits and the size; well-formedness and the way back for each line,
and every word is built of its fields. -/
theorem transactionDecodesByPriority : Obligations.TransactionDecodesByPriority := by
  refine ⟨fun write size addr data => ?_, fun t => ?_⟩
  · split
    next h => exact decodeTransaction_busError write data h
    next h =>
      obtain ⟨rfl, haddr⟩ : size = 2#2 ∧ addr.extractLsb' 0 2 = 0#2 := by simpa using h
      have hi := (decodeTransaction_size2 write addr data).trans (decodeWordAccess_aligned write data haddr)
      split_ifs at hi ⊢ <;> exact hi
  · have h := decodeTransaction_mkTxn_spec (txnWrite t) (txnAddr t) (txnData t) (txnSize t)
    rwa [mkTxn_fields] at h

/-! ### The selector of a word -/

/-- A selector depends on a word's `EN`, `METHOD` and stored `NIN` alone (30_encoding.md R108, R110). -/
theorem decodeSelector_congr {v w : Word} (hen : v.getLsbD 0 = w.getLsbD 0)
    (hmethod : selectorMethod v = selectorMethod w)
    (hnin : legalNin (v.extractLsb' 8 4) = legalNin (w.extractLsb' 8 4)) : decodeSelector v = decodeSelector w := by
  unfold decodeSelector
  rw [hen, hmethod, hnin]

end Sys2Proof

namespace Sys2Proof.Machine

/-! ### A written MRG_CTRL word -/

/-- A write of `MRG(m).CTRL` stores the three fields of the entry (30_encoding.md R109, R110). -/
theorem mrgAt_writeReg_ctrl {s : State} {m : Nat} (hm : m < s.mrgs.length) (w : Word) :
    mrgAt (writeReg s w (.mrg m .ctrl)) m = withMrgCtrl (mrgAt s m) w :=
  mrgAt_setMrg_self s m _ hm

/-- The engine fetches from the entry the selector of the word written to it (30_encoding.md R108, R110). -/
theorem decodeSelector_withMrgCtrl (e : MergeEntry) (w : Word) :
    decodeSelector (mrgCtrlWord (withMrgCtrl e w)) = decodeSelector w := by
  apply decodeSelector_congr
  · exact selector_en_lsb ..
  · exact selectorMethod_mkSelector ..
  · rw [mrgCtrlWord, selectorNin_mkSelector]
    exact legalNin_of_le _ (legalNin_le _)

/-- Phase 3 passes over an entry of a reserved method (30_encoding.md R109, 43_merge_voter.md R201). -/
theorem mergeEntry_reserved {s : State} {m : Nat} (h : 5 ≤ (mrgAt s m).method.toNat) (n : U64) :
    mergeEntry n m s = s := by
  obtain hsame | ⟨e, g, he, hruns, -, -⟩ := mergeEntry_cases n m s
  · exact hsame
  · have hat : mrgAt s m = e := by simp [mrgAt, he]
    obtain ⟨hmethod, -⟩ : e.method.toNat ≤ 4 ∧ _ := by simpa [mergeRuns] using hruns
    rw [hat] at h
    omega

/-- Settles O4: the write leaves `withMrgCtrl` of the entry, whose fields, word and selector are those of the written
word. -/
theorem mrgCtrlWriteStoresSelector : Obligations.MrgCtrlWriteStoresSelector := by
  intro s m w hp hm
  have hat : regAt s.params (addrOf (.mrg m .ctrl)) = some (.mrg m .ctrl) :=
    regAt_addrOf hp ((regExists_mrg s m .ctrl).mpr hm)
  have hentry : mrgAt (respond (writeReg s w (.mrg m .ctrl)) (.ok none)) m = withMrgCtrl (mrgAt s m) w := by
    rw [mrgAt_respond, mrgAt_writeReg_ctrl hm]
  refine ⟨_, exec_busWrite_of hat w, ?_, ?_, ?_, ?_, ?_, fun h n => mergeEntry_reserved ?_ n⟩
  · rw [hentry]; rfl
  · rw [hentry]; rfl
  · rw [hentry]; rfl
  · exact readWord_written hat w _
  · rw [hentry]; exact decodeSelector_withMrgCtrl _ w
  · rw [hentry]; exact h

end Sys2Proof.Machine
end

/-! What each command and STATUS_W1C does (40_host_interface.md R133 to R139), and what a whole step leaves of the
registers and of the table entries (R150, R154). -/

namespace Sys2Proof.Machine

/-! ### The command word at the port -/

/-- A word write of `CMD` is the command of its data (30_encoding.md R103, R104). -/
theorem decodeTransaction_command (data : Word) :
    decodeTransaction (mkTxn true 2#2 0x010#18 data) = decodeCommand data := by
  rw [decodeTransaction_size2, decodeWordAccess_command]

/-- A word write of `STATUS` is STATUS_W1C of its data (30_encoding.md R103). -/
theorem decodeTransaction_status (data : Word) :
    decodeTransaction (mkTxn true 2#2 0x014#18 data) = .statusW1c data := by
  rw [decodeTransaction_size2, decodeWordAccess_status]

/-- An idle block that takes a word write of `CMD` runs its command. -/
theorem step_command {s : State} {data : Word} {rest : List PortEvent} (hidle : s.seq = .idle)
    (hport : s.port = .transaction (mkTxn true 2#2 0x010#18 data) :: rest) :
    step s = exec (decodeCommand data) { s with port := rest } := by
  rw [step_transaction hidle hport, decodeTransaction_command]

/-! ### The operations -/

section
variable (s : State)

theorem exec_nop : exec .nop s = .next { s with resp := .ok none } := rfl

theorem exec_statusW1c (data : Word) :
    exec (.statusW1c data) s = .next { s with status := clearFlags data s.status, resp := .ok none } := rfl

theorem exec_evtPush : exec .evtPush s = .next (respond (pushEvent s) (.ok none)) := rfl

theorem exec_evtFlush : exec .evtFlush s = .next { s with fifo := [], resp := .ok none } := rfl

theorem exec_init : exec .init s = .next (respond (resetAll s) (.ok none)) := rfl

theorem exec_cmdReserved (data : Word) : exec (.cmdReserved data) s =
    .next { s with status := { s.status with cmdErr := true }, resp := .ok none } := rfl

theorem exec_step : exec .step s = .next (respond (runStep s) (.ok none)) := rfl

variable {s}

/-- With room the staged event is queued last (40_host_interface.md R136). -/
theorem pushEvent_room (h : s.fifo.length < s.maxEvents) :
    pushEvent s = { s with fifo := s.fifo ++ [stagedEvent s] } := if_pos h

/-- A full FIFO drops the staged event (40_host_interface.md R136). -/
theorem pushEvent_full (h : ¬ s.fifo.length < s.maxEvents) : pushEvent s = setEvtOvf s := if_neg h

end

/-! ### What the phases leave of the tables -/

section
variable (n : U64) (s : State)

/-- The state Phase 4 of a step starts from. -/
def beforeMonitors : State := mergePhase n (staleness n (ingest (prologue s)))

/-- A step is the phases before Phase 4, then Phases 4 to 7 (40_host_interface.md R150). -/
theorem runPhases_eq :
    runPhases n s = epilogue (cyclicPhase n (transformPhase n (monitorPhase n (beforeMonitors n s)))) := rfl

@[simp] theorem beforeMonitors_mons : (beforeMonitors n s).mons = s.mons := by simp [beforeMonitors]
@[simp] theorem beforeMonitors_xfs : (beforeMonitors n s).xfs = s.xfs := by simp [beforeMonitors]
@[simp] theorem beforeMonitors_cycs : (beforeMonitors n s).cycs = s.cycs := by simp [beforeMonitors]
@[simp] theorem beforeMonitors_sigs_length : (beforeMonitors n s).sigs.length = s.sigs.length := by
  simp [beforeMonitors]

/-- No phase writes a threshold (40_host_interface.md R154). -/
theorem runPhases_thresh (i : Nat) : (sigAt (runPhases n s) i).thresh = (sigAt s i).thresh := by
  have hsigs : (runPhases n s).sigs = (transformPhase n (monitorPhase n (beforeMonitors n s))).sigs := by
    simp [runPhases_eq]
  rw [sigAt_congr hsigs, transformPhase_thresh, monitorPhase_thresh, beforeMonitors, mergePhase_thresh,
    staleness_thresh, ingest_thresh, prologue_thresh]

/-- A step writes the runtime fields of a monitor only (40_host_interface.md R154). -/
theorem runPhases_monitor_config (i : Nat) : sameConfig (monAt s i) (monAt (runPhases n s) i) := by
  have hmons : (runPhases n s).mons = (monitorPhase n (beforeMonitors n s)).mons := by simp [runPhases_eq]
  rw [monAt_congr hmons, ← monAt_congr (beforeMonitors_mons n s)]
  exact monitorPhase_config n _ i

/-- A step keeps EN, IN and OUT of every transform, and a transform that no running limp machine targets
(40_host_interface.md R154). -/
theorem runPhases_xf (i : Nat) :
    ((xfAt (runPhases n s) i).en = (xfAt s i).en ∧ (xfAt (runPhases n s) i).inId = (xfAt s i).inId ∧
      (xfAt (runPhases n s) i).outId = (xfAt s i).outId) ∧
    ((∀ k, monValid s (monAt s k) = true → limpRuns s (monAt s k) = true → (monAt s k).target.toNat ≠ i) →
      xfAt (runPhases n s) i = xfAt s i) := by
  have hxfs : (runPhases n s).xfs = (monitorPhase n (beforeMonitors n s)).xfs := by simp [runPhases_eq]
  have hvalid : ∀ k, monValid (beforeMonitors n s) k = monValid s k := monValid_congr (beforeMonitors_sigs_length n s)
  have hruns : ∀ k, limpRuns (beforeMonitors n s) k = limpRuns s k := fun k => by simp [limpRuns]
  have hphase := monitorPhase_xf n (beforeMonitors n s) i
  simp only [hvalid, hruns, monAt_congr (beforeMonitors_mons n s), xfAt_congr (beforeMonitors_xfs n s)] at hphase
  rwa [xfAt_congr hxfs]

/-- A step writes the deadline of a cyclic entry only (40_host_interface.md R154). -/
theorem runPhases_cyclic_config (i : Nat) :
    (cycAt (runPhases n s) i).src = (cycAt s i).src ∧ (cycAt (runPhases n s) i).target = (cycAt s i).target ∧
    (cycAt (runPhases n s) i).period = (cycAt s i).period := by
  have hcycs : (transformPhase n (monitorPhase n (beforeMonitors n s))).cycs = s.cycs := by simp
  rw [runPhases_eq, cycAt_congr (epilogue_cycs _), ← cycAt_congr hcycs]
  exact cyclicPhase_config n _ i

end

/-! ### A completed STEP -/

section
variable {s t : State} (h : exec .step s = .next t)
include h

/-- A step counts itself, empties the FIFO and completes (40_host_interface.md R150, R154). -/
theorem exec_step_completes : t.stepCnt = s.stepCnt + 1#32 ∧ t.fifo = [] ∧ t.seq = .idle ∧ t.resp = .ok none := by
  cases h
  simp [runStep, runPhases]

/-- The registers, the merge table and the port, which no phase writes (40_host_interface.md R154). -/
theorem exec_step_keeps : t.now = s.now ∧ t.wakeIe = s.wakeIe ∧ t.evtId = s.evtId ∧ t.evtValue = s.evtValue ∧
    t.evtStatus = s.evtStatus ∧ t.evtTs = s.evtTs ∧ t.mrgs = s.mrgs ∧ t.port = s.port := by
  cases h
  simp [runStep, runPhases]

/-- STATUS and the other tables are those the phases leave at the time latched from NOW (40_host_interface.md R151). -/
theorem exec_step_tables : t.status = (runPhases s.now s).status ∧ t.sigs = (runPhases s.now s).sigs ∧
    t.mons = (runPhases s.now s).mons ∧ t.cycs = (runPhases s.now s).cycs ∧ t.xfs = (runPhases s.now s).xfs := by
  cases h
  simp [runStep]

end

/-! ### The statements -/

/-- Settles O24: the fields no phase writes, then STATUS and the four other tables, each by what the phases leave
of it. -/
theorem stepWritesOnlyListedState : Obligations.StepWritesOnlyListedState := by
  intro s
  obtain ⟨t, h⟩ := exec_total .step s
  obtain ⟨hcnt, hfifo, hseq, hresp⟩ := exec_step_completes h
  obtain ⟨hnow, hwakeIe, hevtId, hevtValue, hevtStatus, hevtTs, hmrgs, hport⟩ := exec_step_keeps h
  obtain ⟨hstatus, hsigs, hmons, hcycs, hxfs⟩ := exec_step_tables h
  obtain ⟨hevtOvf, hcmdErr⟩ := runPhases_status s.now s
  rw [← hstatus] at hevtOvf hcmdErr
  refine ⟨t, h, hcnt, hfifo, hseq, hresp, hnow, hwakeIe, hevtId, hevtValue, hevtStatus, hevtTs, hevtOvf, hcmdErr,
    hmrgs, exec_params _ s t h, hport, fun i => ?signals, fun k => ?monitors, fun x => ?transforms, fun x => ?limp,
    fun c => ?cyclic⟩
  case signals => rw [sigAt_congr hsigs]; exact runPhases_thresh s.now s i
  case monitors =>
    rw [monAt_congr hmons, runPhases_monitor_config s.now s k]
    exact ⟨rfl, rfl, rfl, rfl, rfl, rfl, rfl, rfl, rfl, rfl, rfl, rfl⟩
  case transforms => rw [xfAt_congr hxfs]; exact (runPhases_xf s.now s x).1
  case limp => rw [xfAt_congr hxfs]; exact (runPhases_xf s.now s x).2
  case cyclic => rw [cycAt_congr hcycs]; exact runPhases_cyclic_config s.now s c

/-- Settles O11: the line of the decoder, and a write to clear flag by flag. -/
theorem statusWriteOneToClear : Obligations.StatusWriteOneToClear := fun s data =>
  ⟨decodeTransaction_status data, exec_statusW1c s data⟩

/-- Settles O16: command word 0. -/
theorem nopChangesNothing : Obligations.NopChangesNothing := ⟨decodeTransaction_command 0#32, exec_nop⟩

/-- Settles O17: command word 2, with room in the FIFO and without. -/
theorem evtPushQueuesOrOverflows : Obligations.EvtPushQueuesOrOverflows := by
  refine ⟨decodeTransaction_command 2#32, fun s => ?_⟩
  rw [exec_evtPush]
  split
  next hroom => rw [pushEvent_room hroom]; rfl
  next hfull => rw [pushEvent_full hfull]; rfl

/-- Settles O18: command word 3. -/
theorem evtFlushEmptiesFifo : Obligations.EvtFlushEmptiesFifo := ⟨decodeTransaction_command 3#32, exec_evtFlush⟩

/-- Settles O19: command word 4, and RESET_ALL as the reset state of the build. -/
theorem initIsResetAll : Obligations.InitIsResetAll := by
  refine ⟨decodeTransaction_command 4#32, fun s => ?_⟩
  rw [exec_init, resetAll_eq]
  rfl

/-- Settles O20: the operation, and the word at the port that decodes to it. -/
theorem reservedCommandSetsCmdErr : Obligations.ReservedCommandSetsCmdErr := by
  refine ⟨exec_cmdReserved, fun s data rest hidle hport hdata => ?_⟩
  rw [step_command hidle hport, decodeCommand_reserved data hdata, exec_cmdReserved]

/-- Settles O23: command word 1, and the definitions of a step and of its last phase. -/
theorem stepRunsPhasesInOrder : Obligations.StepRunsPhasesInOrder :=
  ⟨decodeTransaction_command 1#32, exec_step, epilogue_only⟩

end Sys2Proof.Machine

/-! What Phase 0 clears (41_ingestion.md R170 to R172), and the wake records Phase 1 emits: per monitor, per event and per
queue of events (41_ingestion.md R173 to R176, 44_fault_monitor.md R255). -/

namespace Sys2Proof.Machine

/-! ### Phase 0 -/

/-- Phase 0 clears the dirty flag of a signal; one past the table reads as after reset (41_ingestion.md R172). -/
theorem prologue_at (s : State) (i : Nat) : sigAt (prologue s) i = { sigAt s i with updated := false } := by
  by_cases hi : i < s.sigs.length
  · exact getD_map _ _ _ _ _ hi
  · simp [sigAt, prologue, List.getD_eq_getElem?_getD, Nat.le_of_not_lt hi, Signal.zero]

/-- With `OUT_COUNT` 0 every word of the output buffer reads 0 (10_state.md R36). -/
theorem readReg_out_of_empty {s : State} (h : s.outs = []) (i : Nat) (f : OutField) :
    readReg s (.out i f) = 0#32 := by
  have hzero : outAt s i = ⟨0#32, 0#32, 0#64⟩ := by simp [outAt, h]
  rw [readReg, hzero]
  cases f <;> rfl

/-- With `WAKE_COUNT` 0 every word of the wake buffer reads 0 (10_state.md R37). -/
theorem readReg_wake_of_empty {s : State} (h : s.wakes = []) (i : Nat) (f : WakeField) :
    readReg s (.wake i f) = 0#32 := by
  have hzero : wakeAt s i = ⟨0#8, 0#32, 0#32, false⟩ := by simp [wakeAt, h]
  rw [readReg, hzero]
  cases f <;> rfl

/-! ### Emitting a list of wake records -/

/-- `t` is `s` after an `emit_wake` for each of `recs` in order, as far as the wake buffer and its flags show it: the
buffer keeps the first MAX_WAKE records, a record sets WAKE_PEND, a dropped one WAKE_OVF (44_fault_monitor.md R255). -/
structure EmitsWakes (recs : List WakeRec) (s t : State) : Prop where
  capacity : t.maxWake = s.maxWake
  wakes : t.wakes = (s.wakes ++ recs).take s.maxWake
  pend : t.status.wakePend = true ↔ s.status.wakePend = true ∨ recs ≠ []
  ovf : t.status.wakeOvf = true ↔ s.status.wakeOvf = true ∨ s.maxWake < s.wakes.length + recs.length

/-- A buffer in which records were emitted is within its capacity. -/
theorem EmitsWakes.bound {recs : List WakeRec} {s t : State} (h : EmitsWakes recs s t) :
    t.wakes.length ≤ t.maxWake := by
  rw [h.wakes, h.capacity]
  exact List.length_take_le ..

/-- No record, and a buffer within its capacity: the buffer and the flags stay. -/
theorem EmitsWakes.nil {s t : State} (hbound : s.wakes.length ≤ s.maxWake) (hcap : t.maxWake = s.maxWake)
    (hwakes : t.wakes = s.wakes) (hstatus : t.status = s.status) : EmitsWakes [] s t where
  capacity := hcap
  wakes := by simp [hwakes, hbound]
  pend := by simp [hstatus]
  ovf := by simp [hstatus, hbound]

/-- Records emitted after others follow them; what the first lot overflowed stays dropped. -/
theorem EmitsWakes.append {as bs : List WakeRec} {s t u : State} (hst : EmitsWakes as s t) (htu : EmitsWakes bs t u) :
    EmitsWakes (as ++ bs) s u where
  capacity := htu.capacity.trans hst.capacity
  wakes := by
    rw [htu.wakes, hst.wakes, hst.capacity, ← List.append_assoc, List.take_append (l₁ := List.take _ _),
      List.take_take, min_self, List.take_append (l₁ := s.wakes ++ as), List.length_take]
    congr 2
    omega
  pend := by rw [htu.pend, hst.pend]; simp [or_assoc, imp_iff_not_or]
  ovf := by
    rw [htu.ovf, hst.ovf, hst.capacity, hst.wakes, List.length_take, List.length_append, List.length_append, or_assoc]
    refine or_congr_right ?_
    omega

/-- `emit_wake` emits its one record (44_fault_monitor.md R255). -/
theorem emitWake_emits (k : Nat) (v lvl : Word) (src : Bool) (s : State) (hbound : s.wakes.length ≤ s.maxWake) :
    EmitsWakes [⟨BitVec.ofNat 8 k, v, lvl, src⟩] s (emitWake k v lvl src s) := by
  by_cases hroom : s.wakes.length < s.maxWake
  case pos =>
    rw [emitWake_room _ _ _ _ _ hroom]
    exact ⟨rfl, by simp [List.take_of_length_le, hroom], by simp, by simp [hroom]⟩
  case neg =>
    rw [emitWake_full _ _ _ _ _ hroom]
    have hfull : s.wakes.length = s.maxWake := by omega
    exact ⟨rfl, by simp [← hfull], by simp, by simp [hfull]⟩

/-! ### The fast path of one event -/

/-- What trips a monitor, spelled out (41_ingestion.md R176, 44_fault_monitor.md R240). -/
theorem fastTrips_iff (s : State) (e : Event) (k : Monitor) :
    fastTrips s e k = true ↔
      k.ctrl.en = true ∧ k.watch.toNat < s.sigs.length ∧ k.fout.toNat < s.sigs.length ∧ k.fout ≠ k.watch ∧
      k.watch = e.id ∧ k.ctrl.chkRange = true ∧ k.ctrl.wakeEn = true ∧
      (e.value.toInt < k.minV.toInt ∨ k.maxV.toInt < e.value.toInt) := by
  simp [fastTrips, monValid_iff, outOfRange, and_assoc]

/-- What trips a monitor depends on the number of signals only. -/
theorem fastTrips_congr {s t : State} (h : s.sigs.length = t.sigs.length) (e : Event) (k : Monitor) :
    fastTrips s e k = fastTrips t e k := by
  simp only [fastTrips, monValid_congr h]

/-- The record event `e` makes monitor `i` emit, if it trips it (41_ingestion.md R176). -/
def fastRec (s : State) (e : Event) (i : Nat) : Option WakeRec :=
  if fastTrips s e (monAt s i) then some ⟨BitVec.ofNat 8 i, e.value, (monAt s i).level, false⟩ else none

/-- The records event `e` makes the monitors emit, in ascending index (41_ingestion.md R176). -/
def fastRecs (s : State) (e : Event) : List WakeRec := (List.range s.mons.length).filterMap (fastRec s e)

/-- The records of an event depend on the monitors and on the number of signals only. -/
theorem fastRec_congr {s t : State} (hsigs : s.sigs.length = t.sigs.length) (hmons : s.mons = t.mons) (e : Event) :
    fastRec s e = fastRec t e := by
  funext i
  simp only [fastRec, monAt_congr hmons, fastTrips_congr hsigs]

theorem fastRecs_congr {s t : State} (hsigs : s.sigs.length = t.sigs.length) (hmons : s.mons = t.mons) (e : Event) :
    fastRecs s e = fastRecs t e := by
  simp only [fastRecs, hmons, fastRec_congr hsigs hmons]

/-- A monitor watches a signal in range, so an event out of range trips none (41_ingestion.md R174). -/
theorem fastRecs_out_of_range {s : State} {e : Event} (h : ¬ e.id.toNat < s.sigs.length) : fastRecs s e = [] := by
  refine List.filterMap_eq_nil_iff.mpr fun i _ => if_neg fun htrips => ?_
  obtain ⟨-, hwatch, -, -, hid, -⟩ := (fastTrips_iff s e _).mp htrips
  exact h (hid ▸ hwatch)

/-- The fast path at one monitor emits the monitor's record, if it has one. -/
theorem fastCheck_emits (e : Event) (i : Nat) (s : State) (hbound : s.wakes.length ≤ s.maxWake) :
    EmitsWakes (fastRec s e i).toList s (fastCheck e i s) := by
  unfold fastRec fastCheck
  split
  · exact emitWake_emits _ _ _ _ s hbound
  · exact .nil hbound rfl rfl rfl

/-- The loop over the first `n` monitors emits their records in ascending index: the monitors and the signals it reads
are those it started from. -/
theorem ascending_fastCheck_emits (e : Event) (n : Nat) (s : State) (hbound : s.wakes.length ≤ s.maxWake) :
    EmitsWakes ((List.range n).filterMap (fastRec s e)) s (ascending n (fastCheck e) s) := by
  induction n with
  | zero => exact .nil hbound rfl rfl rfl
  | succ k ih =>
    have hrec : fastRec (ascending k (fastCheck e) s) e = fastRec s e := by
      rw [ascending_only_wakes k _ s (fastCheck_only e)]; rfl
    have hlast := fastCheck_emits e k _ ih.bound
    rw [hrec] at hlast
    rw [List.range_succ, List.filterMap_append, ascending_succ]
    have hone : [k].filterMap (fastRec s e) = (fastRec s e k).toList := by
      cases hk : fastRec s e k <;> simp [hk]
    rw [hone]
    exact ih.append hlast

/-- The fast path emits the records of its event. -/
theorem fastPath_emits (e : Event) (s : State) (hbound : s.wakes.length ≤ s.maxWake) :
    EmitsWakes (fastRecs s e) s (fastPath e s) :=
  ascending_fastCheck_emits e s.mons.length s hbound

/-! ### One event, and the queue -/

/-- An event out of range is discarded (41_ingestion.md R174). -/
theorem ingestEvent_out_of_range {s : State} {e : Event} (h : ¬ e.id.toNat < s.sigs.length) : ingestEvent s e = s :=
  if_neg (by simpa [sigInRange] using h)

/-- An event in range writes its signal and then takes the fast path (41_ingestion.md R173). -/
theorem ingestEvent_in_range {s : State} {e : Event} (h : e.id.toNat < s.sigs.length) :
    ingestEvent s e = fastPath e (ingestOne e s) :=
  if_pos (by simpa [sigInRange] using h)

@[simp] theorem ingestEvent_mons (s : State) (e : Event) : (ingestEvent s e).mons = s.mons := by rw [ingestEvent_only]
@[simp] theorem ingestEvent_xfs (s : State) (e : Event) : (ingestEvent s e).xfs = s.xfs := by rw [ingestEvent_only]
@[simp] theorem ingestEvent_fifo (s : State) (e : Event) : (ingestEvent s e).fifo = s.fifo := by rw [ingestEvent_only]

/-- An event emits its records, whether it is in range or not. -/
theorem ingestEvent_emits (s : State) (e : Event) (hbound : s.wakes.length ≤ s.maxWake) :
    EmitsWakes (fastRecs s e) s (ingestEvent s e) := by
  by_cases hin : e.id.toNat < s.sigs.length
  case pos =>
    have hwrite : EmitsWakes [] s (ingestOne e s) := .nil hbound rfl rfl rfl
    have hlength : (ingestOne e s).sigs.length = s.sigs.length := List.length_set
    rw [ingestEvent_in_range hin, ← fastRecs_congr hlength rfl e]
    exact hwrite.append (fastPath_emits e _ hwrite.bound)
  case neg =>
    rw [ingestEvent_out_of_range hin, fastRecs_out_of_range hin]
    exact .nil hbound rfl rfl rfl

/-- A queue of events emits the records of its events in push order (41_ingestion.md R173). -/
theorem foldl_ingestEvent_emits (es : List Event) (s : State) (hbound : s.wakes.length ≤ s.maxWake) :
    EmitsWakes (es.flatMap (fastRecs s)) s (es.foldl ingestEvent s) := by
  induction es generalizing s with
  | nil => exact .nil hbound rfl rfl rfl
  | cons e es ih =>
    have hfirst := ingestEvent_emits s e hbound
    have hrest := ih (ingestEvent s e) hfirst.bound
    have hrecs : fastRecs (ingestEvent s e) = fastRecs s :=
      funext (fastRecs_congr (ingestEvent_sigs_length s e) (ingestEvent_mons s e))
    rw [hrecs] at hrest
    exact hfirst.append hrest

/-- Phase 1 emits the records of the queued events in push order (41_ingestion.md R173). -/
theorem ingest_emits (s : State) (hbound : s.wakes.length ≤ s.maxWake) :
    EmitsWakes (s.fifo.flatMap (fastRecs s)) s (ingest s) := by
  obtain ⟨hcap, hwakes, hpend, hovf⟩ := foldl_ingestEvent_emits s.fifo s hbound
  exact ⟨hcap, hwakes, hpend, hovf⟩

/-! ### The statements -/

/-- Settles O28: both buffers are empty, so their words read 0; each signal by `prologue_at`. -/
theorem prologueClearsBuffersAndFlags : Obligations.PrologueClearsBuffersAndFlags := fun s =>
  ⟨prologue_outs s, prologue_wakes s, rfl, rfl, readReg_out_of_empty (prologue_outs s),
    readReg_wake_of_empty (prologue_wakes s), prologue_at s, by rw [prologue_only]⟩

/-- Settles O29: an event out of range, and the one signal an event in range writes. -/
theorem ingestWritesOneSignal : Obligations.IngestWritesOneSignal := fun s e =>
  ⟨fun hout => ingestEvent_out_of_range (Nat.not_lt.mpr hout), fun hin =>
    ⟨ingestEvent_at s e hin, ingestEvent_mons s e, ingestEvent_xfs s e, ingestEvent_fifo s e⟩⟩

/-- Settles O31: the statement's records are `fastRecs`, which one event emits by the loop over the monitors, and Phase 1
by induction over the queue. -/
theorem fastPathRecordsInOrder : Obligations.FastPathRecordsInOrder := by
  intro s hbound trips recs
  have hrecs : recs = fastRecs s := by
    funext e
    exact List.filterMap_congr fun i _ => if_congr (fastTrips_iff s e (monAt s i)).symm rfl rfl
  rw [hrecs]
  have hphase := ingest_emits s hbound
  obtain ⟨hevtOvf, hcmdErr⟩ := ingest_status s
  refine ⟨fun e hin => ?event, rfl, hphase.wakes, hphase.pend, hphase.ovf, hevtOvf, hcmdErr, ingest_mons s, ingest_xfs s⟩
  case event =>
    have hevent := ingestEvent_emits s e hbound
    refine ⟨hevent.wakes, hevent.pend, hevent.ovf, ingestEvent_mons s e, ingestEvent_xfs s e, fun i hi => ?_⟩
    rw [ingestEvent_at s e hin, if_neg hi]

end Sys2Proof.Machine

/-! The staleness scan, signal by signal, and a second scan at the same time (42_staleness.md R190, R191). -/

namespace Sys2Proof.Machine

/-! ### One signal -/

/-- A signal as after reset has threshold 0, so it is never stale (42_staleness.md R190). -/
@[simp] theorem staleSignal_zero (n : U64) : staleSignal n Signal.zero = Signal.zero := by
  rw [staleSignal_eq]
  exact if_neg fun ⟨hthresh, _⟩ => Nat.lt_irrefl 0 hthresh

/-- A signal already TIMEOUT is left as it is, stale or not (42_staleness.md R191). -/
theorem staleSignal_timeout (n : U64) {g : Signal} (h : g.status = .timeout) : staleSignal n g = g := by
  rw [staleSignal_eq]
  exact if_neg fun ⟨_, _, hstatus⟩ => hstatus h

/-- What the scan changed is TIMEOUT and stays as it is; what it left fails the same test again (42_staleness.md R191). -/
@[simp] theorem staleSignal_idem (n : U64) (g : Signal) : staleSignal n (staleSignal n g) = staleSignal n g := by
  by_cases hset : (isStale n g && g.status != .timeout) = true
  case pos =>
    have hstatus : (staleSignal n g).status = .timeout := by rw [staleSignal, if_pos hset]
    exact staleSignal_timeout n hstatus
  case neg =>
    have hleft : staleSignal n g = g := if_neg hset
    rw [hleft, hleft]

/-! ### The scan -/

/-- The scan applies the test to every signal; one past the table reads as after reset (42_staleness.md R190, R193). -/
theorem staleness_at (n : U64) (s : State) (i : Nat) : sigAt (staleness n s) i = staleSignal n (sigAt s i) := by
  have hmap := List.getD_map s.sigs Signal.zero (n := i) (staleSignal n)
  rwa [staleSignal_zero] at hmap

/-- The second scan finds each signal as the first left it (42_staleness.md R191). -/
theorem staleness_idem (n : U64) (s : State) : staleness n (staleness n s) = staleness n s := by
  have hsigs : (s.sigs.map (staleSignal n)).map (staleSignal n) = s.sigs.map (staleSignal n) := by
    rw [List.map_map]
    exact List.map_congr_left fun g _ => staleSignal_idem n g
  simp only [staleness, hsigs]

/-- Settles O32: each signal by `staleness_at` and the test of one signal, the rest by the scan's frame, and the second
scan by `staleness_idem`. -/
theorem stalenessScan : Obligations.StalenessScan := fun s n =>
  ⟨fun i => (staleness_at n s i).trans (staleSignal_eq n (sigAt s i)), by rw [staleness_only], staleness_idem n s⟩

end Sys2Proof.Machine

/-! The voting methods as properties of the list of valid inputs, and the METHOD rows at one merge entry
(43_merge_voter.md). -/

namespace Sys2Proof.Machine

/-! ### Each METHOD row -/

section
variable (s : State) (en : Bool) (nin : BitVec 4)

theorem exec_methodMin : exec (.methodMin en nin) s = .next (atMergeEntry (mergePass voteMin en nin) s) := rfl

theorem exec_methodMax : exec (.methodMax en nin) s = .next (atMergeEntry (mergePass voteMax en nin) s) := rfl

theorem exec_methodAverage :
    exec (.methodAverage en nin) s = .next (atMergeEntry (mergePass voteAverage en nin) s) := rfl

theorem exec_methodMedian :
    exec (.methodMedian en nin) s = .next (atMergeEntry (mergePass voteMedian en nin) s) := rfl

theorem exec_methodMajority :
    exec (.methodMajority en nin) s = .next (atMergeEntry (mergePass voteMajority en nin) s) := rfl

theorem exec_methodReserved5 : exec (.methodReserved5 en nin) s = .next s := rfl

theorem exec_methodReserved6 : exec (.methodReserved6 en nin) s = .next s := rfl

theorem exec_methodReserved7 : exec (.methodReserved7 en nin) s = .next s := rfl

/-- METHOD 0 (30_encoding.md R108). -/
theorem decodeSelector_min : decodeSelector (mkSelector en 0#3 nin) = .methodMin en (legalNin nin) := by
  simp [decodeSelector]

/-- METHOD 1 (30_encoding.md R108). -/
theorem decodeSelector_max : decodeSelector (mkSelector en 1#3 nin) = .methodMax en (legalNin nin) := by
  simp [decodeSelector]

/-- METHOD 2 (30_encoding.md R108). -/
theorem decodeSelector_average : decodeSelector (mkSelector en 2#3 nin) = .methodAverage en (legalNin nin) := by
  simp [decodeSelector]

/-- METHOD 3 (30_encoding.md R108). -/
theorem decodeSelector_median : decodeSelector (mkSelector en 3#3 nin) = .methodMedian en (legalNin nin) := by
  simp [decodeSelector]

/-- METHOD 4 (30_encoding.md R108). -/
theorem decodeSelector_majority : decodeSelector (mkSelector en 4#3 nin) = .methodMajority en (legalNin nin) := by
  simp [decodeSelector]

end

/-- What holds of the engine under each voting method, holds of the five METHOD rows. -/
theorem methodRows_of_atMergeEntry {s t : State} {en : Bool} {nin : BitVec 4}
    (h : ∀ vote, atMergeEntry (mergePass vote en nin) s = t) :
    exec (.methodMin en nin) s = .next t ∧ exec (.methodMax en nin) s = .next t ∧
    exec (.methodAverage en nin) s = .next t ∧ exec (.methodMedian en nin) s = .next t ∧
    exec (.methodMajority en nin) s = .next t := by
  refine ⟨?_, ?_, ?_, ?_, ?_⟩
  · rw [exec_methodMin, h]
  · rw [exec_methodMax, h]
  · rw [exec_methodAverage, h]
  · rw [exec_methodMedian, h]
  · rw [exec_methodMajority, h]

/-! ### The valid inputs -/

/-- Slot `j` is in use when it is below NIN (10_state.md R43). -/
theorem usedSlots_getElem? (nin : BitVec 4) (e : MergeEntry) (j : Nat) :
    (usedSlots nin e)[j]? = if j < nin.toNat then e.slots.toList[j]? else none := List.getElem?_take

/-- VALID_INPUTS keeps the slots whose signal is in range and OK, and reads their values (43_merge_voter.md R202). -/
theorem validInputs_eq (s : State) (nin : BitVec 4) (e : MergeEntry) :
    validInputs s nin e = ((usedSlots nin e).filter fun i =>
      decide (i.toNat < s.sigs.length ∧ (sigAt s i.toNat).status = .ok)).map fun i => (sigAt s i.toNat).value.toInt := by
  rw [← List.filterMap_eq_map', List.filterMap_filter, validInputs]
  exact List.filterMap_congr fun i _ => by simp [sigInRange]

/-! ### A merge that is skipped -/

/-- The grounds of R201 that do not depend on the method. -/
theorem mergeSkip_iff (s : State) (en : Bool) (nin : BitVec 4) (e : MergeEntry) :
    mergeSkip s en nin e = true ↔ en = false ∨ s.sigs.length ≤ e.outId.toNat ∨ e.outId ∈ usedSlots nin e := by
  simp [mergeSkip, sigInRange, or_assoc]

/-- An entry runs when it has a voting method and is not skipped (43_merge_voter.md R201). -/
theorem mergeRuns_iff (s : State) (e : MergeEntry) :
    mergeRuns s e = true ↔ e.method.toNat ≤ 4 ∧ ¬ mergeSkip s e.en e.nin e = true := by
  simp [mergeRuns]

/-- A skipped merge writes nothing, whatever the method (43_merge_voter.md R201). -/
theorem atMergeEntry_skipped {s : State} {m : Nat} {n : U64} {e : MergeEntry} {en : Bool} {nin : BitVec 4}
    (hseq : s.seq = .running (.merge m) n) (hentry : s.mrgs[m]? = some e) (hskip : mergeSkip s en nin e = true)
    (vote : List Int → Nat → Int × Status) : atMergeEntry (mergePass vote en nin) s = s := by
  simp [atMergeEntry, hseq, mergePass, hentry, hskip]

/-- Phase 3 passes over an entry that does not run (43_merge_voter.md R201). -/
theorem mergeEntry_not_runs {s : State} {m : Nat} {e : MergeEntry} (hentry : s.mrgs[m]? = some e)
    (hnot : ¬ mergeRuns s e = true) (n : U64) : mergeEntry n m s = s := by
  obtain hsame | ⟨e', -, hentry', hruns, -⟩ := mergeEntry_cases n m s
  · exact hsame
  · have hee : e = e' := Option.some.inj (hentry.symm.trans hentry')
    exact absurd (hee ▸ hruns) hnot

/-! ### A merge that votes -/

section
variable {s : State} {m : Nat} {n : U64} {e : MergeEntry} {nin : BitVec 4}
  (hseq : s.seq = .running (.merge m) n) (hentry : s.mrgs[m]? = some e) (hrange : e.outId.toNat < s.sigs.length)
  (hout : e.outId ∉ usedSlots nin e)
include hseq hentry hrange hout

/-- With a valid input, the output gets the method's value, the status after the override, the step time and `updated`
(43_merge_voter.md R210). -/
theorem atMergeEntry_writes (hinputs : validInputs s nin e ≠ []) (vote : List Int → Nat → Int × Status) :
    atMergeEntry (mergePass vote true nin) s = setSig s e.outId.toNat { sigAt s e.outId.toNat with
      value := BitVec.ofInt 32 (vote (validInputs s nin e) e.tol.toNat).1
      status := tolOverride (vote (validInputs s nin e) e.tol.toNat).2 (validInputs s nin e) e.tol.toNat
      ts := n, updated := true } := by
  rw [mergePass_at vote hseq hentry hrange hout, mergeVote_nonempty vote hinputs]

/-- With no valid input, the output gets the status ERROR only (43_merge_voter.md R203). -/
theorem atMergeEntry_empty (hinputs : validInputs s nin e = []) (vote : List Int → Nat → Int × Status) :
    atMergeEntry (mergePass vote true nin) s =
      setSig s e.outId.toNat { sigAt s e.outId.toNat with status := .error } := by
  rw [mergePass_at vote hseq hentry hrange hout, mergeVote_empty vote hinputs]

end

/-- A second write of a signal replaces the first. -/
theorem setSig_setSig (s : State) (i : Nat) (g g' : Signal) : setSig (setSig s i g) i g' = setSig s i g' := by
  simp [setSig]

/-! ### The five methods -/

/-- A property of each of the five methods, said of all. -/
theorem forall_vote {P : (List Int → Nat → Int × Status) → Prop} (hmin : P voteMin) (hmax : P voteMax)
    (haverage : P voteAverage) (hmedian : P voteMedian) (hmajority : P voteMajority) :
    ∀ vote ∈ [voteMin, voteMax, voteAverage, voteMedian, voteMajority], P vote := by
  simp only [List.forall_mem_cons]
  exact ⟨hmin, hmax, haverage, hmedian, hmajority, List.forall_mem_nil _⟩

/-- MAJORITY is OK exactly when twice the inputs within TOL of the median reach the count (43_merge_voter.md R208). -/
theorem voteMajority_status (v : List Int) (tol : Nat) :
    (voteMajority v tol).2 = if v.length ≤ 2 * (v.filter fun x =>
      decide (medianOf v - x ≤ (tol : Int) ∧ x - medianOf v ≤ (tol : Int))).length then .ok else .inconsistent := by
  rw [← nearMedian_eq]
  have hquorum : (v.length + 1) / 2 ≤ nearMedian v tol ↔ v.length ≤ 2 * nearMedian v tol := by omega
  exact if_congr hquorum rfl rfl

/-- The truncated mean lies between the least and the greatest input (43_merge_voter.md R206, R212). -/
theorem average_between {v : List Int} (h : v ≠ []) :
    listMin v ≤ v.sum.tdiv v.length ∧ v.sum.tdiv v.length ≤ listMax v := by
  have hpos : (0 : Int) < v.length := by exact_mod_cast List.length_pos_iff.mpr h
  obtain ⟨hlow, hhigh⟩ := sum_bounds v (listMin v) (listMax v) fun x hx =>
    ⟨(listMin_spec h).2 x hx, (listMax_spec h).2 x hx⟩
  have hdiv : ∀ a : Int, (a * v.length).tdiv v.length = a := fun a => Int.mul_tdiv_cancel a hpos.ne'
  constructor
  · calc listMin v = (listMin v * v.length).tdiv v.length := (hdiv _).symm
      _ ≤ v.sum.tdiv v.length := Int.tdiv_le_tdiv hpos hlow
  · calc v.sum.tdiv v.length ≤ (listMax v * v.length).tdiv v.length := Int.tdiv_le_tdiv hpos hhigh
      _ = listMax v := hdiv _

/-- Every method's result has an input at or below it and one at or above it (43_merge_voter.md R212). -/
theorem vote_between {v : List Int} (h : v ≠ []) (tol : Nat) :
    ∀ vote ∈ [voteMin, voteMax, voteAverage, voteMedian, voteMajority],
      (∃ x ∈ v, x ≤ (vote v tol).1) ∧ ∃ x ∈ v, (vote v tol).1 ≤ x := by
  obtain ⟨hminMem, -⟩ := listMin_spec h
  obtain ⟨hmaxMem, -⟩ := listMax_spec h
  obtain ⟨haverageLow, haverageHigh⟩ := average_between h
  exact forall_vote
    ⟨⟨_, hminMem, le_rfl⟩, _, hminMem, le_rfl⟩
    ⟨⟨_, hmaxMem, le_rfl⟩, _, hmaxMem, le_rfl⟩
    ⟨⟨_, hminMem, haverageLow⟩, _, hmaxMem, haverageHigh⟩
    (medianOf_between h)
    (medianOf_between h)

/-- How many inputs lie near the median does not depend on their order (43_merge_voter.md R214). -/
theorem nearMedian_perm {v w : List Int} (h : v.Perm w) (tol : Nat) : nearMedian v tol = nearMedian w tol := by
  rw [nearMedian, nearMedian, medianOf_perm h]
  exact h.countP_eq _

/-- Two inputs differ by more than `d` exactly when the greatest and the least do (43_merge_voter.md R209). -/
theorem exists_sub_gt_iff {v : List Int} (h : v ≠ []) (d : Int) :
    (∃ x ∈ v, ∃ y ∈ v, d < x - y) ↔ d < listMax v - listMin v := by
  obtain ⟨hminMem, hminLe⟩ := listMin_spec h
  obtain ⟨hmaxMem, hmaxGe⟩ := listMax_spec h
  constructor
  · rintro ⟨x, hx, y, hy, hxy⟩
    have hxMax := hmaxGe x hx
    have hyMin := hminLe y hy
    omega
  · exact fun hspread => ⟨_, hmaxMem, _, hminMem, hspread⟩

/-- The override's test, with the spread as the difference of two inputs (43_merge_voter.md R209). -/
theorem tolOverride_eq (st : Status) (v : List Int) (tol : Nat) : tolOverride st v tol =
    if 1 < v.length ∧ 0 < tol ∧ ∃ x ∈ v, ∃ y ∈ v, (tol : Int) < x - y then .inconsistent else st := by
  refine if_congr (and_congr_right fun hlength => and_congr_right fun _ => (exists_sub_gt_iff ?_ _).symm) rfl rfl
  rintro rfl
  exact absurd hlength (by decide)

/-! ### The statements -/

/-- Settles O33: the value written is `listMin` of the valid inputs. -/
theorem methodMinWritesMinimum : Obligations.MethodMinWritesMinimum := by
  intro s m n e nin hseq hentry hrange hout hinputs
  obtain ⟨hmem, hle⟩ := listMin_spec hinputs
  exact ⟨decodeSelector_min true nin, _, hmem, hle,
    congrArg Host.Outcome.next (atMergeEntry_writes hseq hentry hrange hout hinputs voteMin)⟩

/-- Settles O34: the value written is `listMax` of the valid inputs. -/
theorem methodMaxWritesMaximum : Obligations.MethodMaxWritesMaximum := by
  intro s m n e nin hseq hentry hrange hout hinputs
  obtain ⟨hmem, hle⟩ := listMax_spec hinputs
  exact ⟨decodeSelector_max true nin, _, hmem, hle,
    congrArg Host.Outcome.next (atMergeEntry_writes hseq hentry hrange hout hinputs voteMax)⟩

/-- Settles O35: the value written is the truncated quotient, whose remainder `tdiv_spec` bounds. -/
theorem methodAverageTruncatesTowardZero : Obligations.MethodAverageTruncatesTowardZero := by
  intro s m n e nin hseq hentry hrange hout hinputs v
  obtain ⟨hsmall, hsign⟩ := tdiv_spec v.sum v.length (List.length_pos_iff.mpr hinputs)
  exact ⟨decodeSelector_average true nin, _, hsmall, hsign,
    congrArg Host.Outcome.next (atMergeEntry_writes hseq hentry hrange hout hinputs voteAverage)⟩

/-- Settles O36: the sorted list is `sortInts`, and `medianOf_spec` says where the median stands in it. -/
theorem methodMedianWritesMiddle : Obligations.MethodMedianWritesMiddle := by
  intro s m n e nin hseq hentry hrange hout hinputs v
  obtain ⟨hodd, heven⟩ := medianOf_spec hinputs
  refine ⟨decodeSelector_median true nin, sortInts v, medianOf v, sortInts_perm v, sortInts_sorted v, hodd,
    fun hlength => ?_, congrArg Host.Outcome.next (atMergeEntry_writes hseq hentry hrange hout hinputs voteMedian)⟩
  obtain ⟨a, b, ha, hb, hmedian⟩ := heven hlength
  obtain ⟨hlow, hhigh⟩ := fdiv_two (a + b)
  rw [← hmedian] at hlow hhigh
  exact ⟨a, b, ha, hb, hlow, hhigh⟩

/-- Settles O37: the status is `voteMajority_status`; METHOD_MEDIAN writes the same signal but for the status. -/
theorem methodMajorityNeedsQuorum : Obligations.MethodMajorityNeedsQuorum := by
  intro s m n e nin hseq hentry hrange hout hinputs v near st t
  have hwrites := atMergeEntry_writes hseq hentry hrange hout hinputs
  refine ⟨decodeSelector_majority true nin, ?_, tolOverride .ok v e.tol.toNat, ?_⟩
  · rw [exec_methodMajority, hwrites voteMajority, voteMajority_status]
    rfl
  · have hsig : sigAt t e.outId.toNat = _ := sigAt_setSig_self s _ _ hrange
    rw [exec_methodMedian, hwrites voteMedian, hsig]
    exact congrArg Host.Outcome.next (setSig_setSig s _ _ _).symm

/-- Settles O38: with no valid input the method is not consulted. -/
theorem mergeWithoutInputsIsError : Obligations.MergeWithoutInputsIsError := by
  intro s m n e nin hseq hentry hrange hout hinputs t
  exact methodRows_of_atMergeEntry (atMergeEntry_empty hseq hentry hrange hout hinputs)

/-- Settles O39: each ground keeps the entry from running, or its METHOD row from voting. -/
theorem skippedMergeWritesNothing : Obligations.SkippedMergeWritesNothing := by
  refine ⟨fun s m n e hentry hground => mergeEntry_not_runs hentry ?_ n,
    fun s m n e en nin hseq hentry hground =>
      methodRows_of_atMergeEntry (atMergeEntry_skipped hseq hentry ((mergeSkip_iff s en nin e).mpr hground)),
    fun s m n e en nin _ _ =>
      ⟨exec_methodReserved5 s en nin, exec_methodReserved6 s en nin, exec_methodReserved7 s en nin⟩⟩
  rw [mergeRuns_iff, mergeSkip_iff]
  rintro ⟨hmethod, hnotSkipped⟩
  obtain hen | hreserved | hrest := hground
  · exact hnotSkipped (.inl hen)
  · omega
  · exact hnotSkipped (.inr hrest)

/-- Settles O41: the two branches of the override's test. -/
theorem toleranceOverrideBySpread : Obligations.ToleranceOverrideBySpread := by
  intro st v tol
  rw [tolOverride_eq]
  exact ⟨fun hlength htol hspread => if_pos ⟨hlength, htol, hspread⟩, fun hnot => if_neg hnot⟩

/-- Settles O42: the result stands between two inputs, and so within the range that holds them all. -/
theorem voteResultFitsInRange : Obligations.VoteResultFitsInRange := by
  intro vote hvote v tol hv
  obtain ⟨⟨x, hx, hxr⟩, ⟨y, hy, hry⟩⟩ := vote_between hv tol vote hvote
  refine ⟨⟨x, hx, hxr⟩, ⟨y, hy, hry⟩, fun hi32 => ?_⟩
  exact ofInt_toInt ((hi32 x hx).1.trans hxr) (hry.trans_lt (hi32 y hy).2)

/-- Settles O43: least, greatest, sum, count, median and the inputs near it are the same for two permutations. -/
theorem voteIgnoresSlotOrder : Obligations.VoteIgnoresSlotOrder := by
  intro v w tol st h
  refine ⟨forall_vote ?min ?max ?average ?median ?majority, ?override⟩
  case min => simp only [voteMin, listMin_perm h]
  case max => simp only [voteMax, listMax_perm h]
  case average => simp only [voteAverage, h.sum_eq, h.length_eq]
  case median => simp only [voteMedian, medianOf_perm h]
  case majority => simp only [voteMajority, medianOf_perm h, nearMedian_perm h, h.length_eq]
  case override => simp only [tolOverride, listMin_perm h, listMax_perm h, h.length_eq]

/-- Settles O60: the slots in use are the first NIN of the eight, and VALID_INPUTS filters them. -/
theorem validInputsAreOkSlotsInUse : Obligations.ValidInputsAreOkSlotsInUse := fun s nin e =>
  ⟨usedSlots_getElem? nin e, validInputs_eq s nin e⟩

end Sys2Proof.Machine

/-! Phase 4, monitor by monitor: which monitors take part, what a pass writes of the signals, of the wake buffer and of the
monitor itself, and the limp-home machine line by line (44_fault_monitor.md R240 to R258). -/

namespace Sys2Proof.Machine

/-! ### Which monitors take part -/

/-- The iteration of a valid monitor is its pass (44_fault_monitor.md R241). -/
theorem monitorEntry_valid {s : State} {i : Nat} (h : monValid s (monAt s i) = true) (n : U64) :
    monitorEntry n i s = monitorPass n i s := if_pos h

/-- The iteration of an invalid monitor changes nothing (44_fault_monitor.md R240). -/
theorem monitorEntry_invalid {s : State} {i : Nat} (h : ¬ monValid s (monAt s i) = true) (n : U64) :
    monitorEntry n i s = s := if_neg h

/-- The fast path passes over an invalid monitor (41_ingestion.md R176, 44_fault_monitor.md R240). -/
theorem fastCheck_invalid {s : State} {i : Nat} (h : ¬ monValid s (monAt s i) = true) (e : Event) :
    fastCheck e i s = s := if_neg (by simp [fastTrips, h])

/-! ### The fault output -/

/-- FAULT_OUTPUT writes one signal, if it is in range (44_fault_monitor.md R246). -/
theorem sigAt_faultOutput {s : State} {k : Monitor} (h : k.fout.toNat < s.sigs.length) (n : U64) (f : Bool) (j : Nat) :
    sigAt (faultOutput n k f s) j =
      if j = k.fout.toNat then
        { sigAt s j with value := faultLevel k f, status := .ok, ts := n
                         updated := (sigAt s j).value != faultLevel k f || (sigAt s j).updated }
      else sigAt s j := by
  rw [faultOutput, sigAt_setSig]
  by_cases hj : j = k.fout.toNat
  case pos =>
    subst hj
    simp only [h, and_self, if_true, Bool.if_true_left, Bool.decide_eq_true]
  case neg => rw [if_neg hj, if_neg fun hc => hj hc.1.symm]

/-- The fault output of a valid monitor is not the signal it watches (44_fault_monitor.md R240, R256). -/
theorem sigAt_watch_faultOutput {s : State} {k : Monitor} (h : monValid s k = true) (n : U64) (f : Bool) :
    sigAt (faultOutput n k f s) k.watch.toNat = sigAt s k.watch.toNat := by
  obtain ⟨-, -, hfout, hne⟩ := (monValid_iff s k).mp h
  rw [sigAt_faultOutput hfout, if_neg fun hc => hne (BitVec.eq_of_toNat_eq hc.symm)]

/-! ### The cycle-level wake -/

/-- CYCLE_WAKE emits one record on a rising fault with both enables set (44_fault_monitor.md R247). -/
theorem cycleWake_rising {k : Monitor} {f : Bool}
    (h : k.ctrl.cycWakeEn = true ∧ k.ctrl.wakeEn = true ∧ f = true ∧ k.faultActive = false) (i : Nat) (s : State) :
    cycleWake i k f s = emitWake i (sigAt s k.watch.toNat).value k.level true s :=
  if_pos (by simpa [and_assoc] using h)

/-- CYCLE_WAKE does nothing otherwise (44_fault_monitor.md R247). -/
theorem cycleWake_quiet {k : Monitor} {f : Bool}
    (h : ¬ (k.ctrl.cycWakeEn = true ∧ k.ctrl.wakeEn = true ∧ f = true ∧ k.faultActive = false)) (i : Nat) (s : State) :
    cycleWake i k f s = s :=
  if_neg (by simpa [and_assoc] using h)

/-! ### The limp-home machine, line by line -/

/-- The monitor after an entry into LIMP: the snapshot, LIMP, and the time of the pass (44_fault_monitor.md R250). -/
def enteredMon (n : U64) (k : Monitor) (x : Xform) : Monitor :=
  { snapshot k x with limpActive := true, fctMs := stepMs n }

section
variable {s : State} {i : Nat}

/-- A machine that does not run is frozen (44_fault_monitor.md R249). -/
theorem limpFsm_frozen (hruns : ¬ limpRuns s (monAt s i) = true) (n : U64) (f : Bool) : limpFsm n f i s = s := by
  simp [limpFsm, hruns]

variable (hruns : limpRuns s (monAt s i) = true)
include hruns

/-- NORMAL, fault: snapshot, override, enter LIMP (44_fault_monitor.md R250, R251). -/
theorem limpFsm_enter (hnormal : (monAt s i).limpActive = false) (n : U64) :
    limpFsm n true i s =
      setXf (setMon s i (enteredMon n (monAt s i) (xfAt s (monAt s i).target.toNat)))
        (monAt s i).target.toNat (limpOverride (monAt s i) (xfAt s (monAt s i).target.toNat)) := by
  simp [limpFsm, enteredMon, hruns, hnormal]

/-- NORMAL with no fault and LIMP with one: only FCT_MS moves (44_fault_monitor.md R252, R254). -/
theorem limpFsm_moves {f : Bool} (hstate : (monAt s i).limpActive = f) (n : U64) :
    limpFsm n f i s = setMon s i { monAt s i with fctMs := stepMs n } := by
  subst hstate
  cases hlimp : (monAt s i).limpActive <;> simp [limpFsm, hruns, hlimp]

/-- LIMP, no fault, delay elapsed: restore, back to NORMAL (44_fault_monitor.md R253). -/
theorem limpFsm_restore (hlimp : (monAt s i).limpActive = true) {n : U64} (helapsed : delayElapsed n (monAt s i) = true) :
    limpFsm n false i s =
      setXf (setMon s i { monAt s i with limpActive := false, fctMs := stepMs n })
        (monAt s i).target.toNat (limpRestore (monAt s i) (xfAt s (monAt s i).target.toNat)) := by
  simp [limpFsm, hruns, hlimp, helapsed]

/-- LIMP, no fault, delay not elapsed: LIMP is held (44_fault_monitor.md R253). -/
theorem limpFsm_hold (hlimp : (monAt s i).limpActive = true) {n : U64} (hwait : ¬ delayElapsed n (monAt s i) = true) :
    limpFsm n false i s = s := by
  simp [limpFsm, hruns, hlimp, hwait]

end

/-- The machine runs, spelled out (44_fault_monitor.md R249). -/
theorem limpRuns_iff (s : State) (k : Monitor) :
    limpRuns s k = true ↔ k.ctrl.limpEn = true ∧ k.target.toNat < s.xfs.length := by
  simp [limpRuns]

/-- A monitor written together with a transform reads back as written. -/
theorem monAt_setXf_setMon {s : State} {i : Nat} (hi : i < s.mons.length) (k : Monitor) (t : Nat) (x : Xform) :
    monAt (setXf (setMon s i k) t x) i = k :=
  monAt_setMon_self s i k hi

/-- The machine does not touch the fault memory (44_fault_monitor.md R248). -/
theorem limpFsm_faultActive {s : State} {i : Nat} (hi : i < s.mons.length) (n : U64) (f : Bool) :
    (monAt (limpFsm n f i s) i).faultActive = (monAt s i).faultActive := by
  obtain ⟨-, h⟩ | ⟨-, -, -, h⟩ | ⟨-, -, h⟩ | ⟨-, -, -, -, h⟩ | ⟨-, -, -, -, h⟩ := limpFsm_cases n f i s
  · rw [h]
  · rw [h, monAt_setXf_setMon hi]; rfl
  · rw [h, monAt_setMon_self s i _ hi]
  · rw [h, monAt_setXf_setMon hi]
  · rw [h]

/-- OVERRIDE as a disjunction of the enable and the flag before (44_fault_monitor.md R251). -/
theorem limpOverride_eq (k : Monitor) (x : Xform) : limpOverride k x =
    { x with scale := if k.ctrl.limpScaleEn then k.limpScale else x.scale
             clampMin := if k.ctrl.limpMinEn then k.limpMin else x.clampMin
             hasMin := k.ctrl.limpMinEn || x.hasMin
             clampMax := if k.ctrl.limpMaxEn then k.limpMax else x.clampMax
             hasMax := k.ctrl.limpMaxEn || x.hasMax } := by
  simp only [limpOverride, Bool.if_true_left, Bool.decide_eq_true]

/-- RESTORE undoes SNAPSHOT and OVERRIDE (44_fault_monitor.md R250, R251, R253). -/
theorem limpRestore_entered (n : U64) (k : Monitor) (x : Xform) :
    limpRestore (enteredMon n k x) (limpOverride k x) = x := rfl

/-! ### The delay -/

/-- `N div 1000` fits in 64 bits (40_host_interface.md R151). -/
theorem stepMs_toNat (n : U64) : (stepMs n).toNat = n.toNat / 1000 := by
  have hn := n.isLt
  rw [stepMs, BitVec.toNat_ofNat]
  omega

/-- "Delay elapsed", in milliseconds of the step time (44_fault_monitor.md R249, R253). -/
theorem delayElapsed_iff (n : U64) (k : Monitor) :
    delayElapsed n k = true ↔ k.restoreMs.toNat ≤ n.toNat / 1000 - k.fctMs.toNat := by
  simp [delayElapsed, satSub, stepMs_toNat]

/-! ### The pass -/

/-- A pass leaves every other monitor (44_fault_monitor.md R256). -/
theorem monAt_monitorEntry_ne {i j : Nat} (h : j ≠ i) (n : U64) (s : State) :
    monAt (monitorEntry n i s) j = monAt s j := by
  unfold monitorEntry
  split
  · exact monAt_monitorPass_ne h.symm s
  · rfl

section
variable {s : State} {i : Nat} (hvalid : monValid s (monAt s i) = true)
include hvalid

/-- The pass of a valid monitor ends with the limp-home machine (44_fault_monitor.md R241). -/
theorem monitorEntry_eq_limpFsm (n : U64) :
    monitorEntry n i s = limpFsm n (faultOf n s i) i (beforeLimp n i s) := by
  rw [monitorEntry_valid hvalid, monitorPass_eq]

/-- The pass writes the signals its fault output writes. -/
theorem sigAt_monitorEntry (n : U64) (j : Nat) :
    sigAt (monitorEntry n i s) j = sigAt (faultOutput n (monAt s i) (faultOf n s i) s) j := by
  rw [monitorEntry_valid hvalid, sigAt_congr (monitorPass_sigs n i s)]

/-- The pass remembers the fault (44_fault_monitor.md R248). -/
theorem monitorEntry_faultActive (n : U64) : (monAt (monitorEntry n i s) i).faultActive = faultOf n s i := by
  have hi := monValid_lt hvalid
  have hlength : i < (beforeLimp n i s).mons.length := by simpa using hi
  rw [monitorEntry_eq_limpFsm hvalid, limpFsm_faultActive hlength, monAt_beforeLimp hi]

/-- The machine of a pass finds the fault just found in FAULT_ACTIVE, and the rest of its monitor as it was. -/
theorem monAt_beforeLimp_of {n : U64} {f : Bool} (hfault : faultOf n s i = f) :
    monAt (beforeLimp n i s) i = { monAt s i with faultActive := f } := by
  rw [monAt_beforeLimp (monValid_lt hvalid), hfault]

/-- What the limp-home machine of the pass writes into its monitor is what the pass leaves there. -/
theorem monAt_setMon_beforeLimp (n : U64) (k : Monitor) : monAt (setMon (beforeLimp n i s) i k) i = k :=
  monAt_setMon_self _ i k (by simpa using monValid_lt hvalid)

/-- The machine of a pass runs as it would before the pass. -/
theorem limpRuns_beforeLimp_iff (n : U64) :
    limpRuns (beforeLimp n i s) (monAt (beforeLimp n i s) i) = true ↔
      (monAt s i).ctrl.limpEn = true ∧ (monAt s i).target.toNat < s.xfs.length := by
  rw [limpRuns_iff, monAt_beforeLimp (monValid_lt hvalid), beforeLimp_xfs]

end

/-! ### The pass, line by line of the transition table -/

/-- A pass whose machine is frozen only remembers the fault (44_fault_monitor.md R248, R249). -/
theorem pass_frozen {s : State} {i : Nat} (hvalid : monValid s (monAt s i) = true)
    (hfrozen : ¬ ((monAt s i).ctrl.limpEn = true ∧ (monAt s i).target.toNat < s.xfs.length)) (n : U64) :
    monAt (monitorEntry n i s) i = { monAt s i with faultActive := faultOf n s i } ∧
    (monitorEntry n i s).xfs = s.xfs := by
  rw [monitorEntry_eq_limpFsm hvalid, limpFsm_frozen (mt (limpRuns_beforeLimp_iff hvalid n).mp hfrozen)]
  exact ⟨monAt_beforeLimp (monValid_lt hvalid), beforeLimp_xfs n i s⟩

section
variable {s : State} {i : Nat} {n : U64} (hvalid : monValid s (monAt s i) = true)
  (hruns : (monAt s i).ctrl.limpEn = true ∧ (monAt s i).target.toNat < s.xfs.length)
include hvalid hruns

/-- NORMAL, fault (44_fault_monitor.md R250, R251). -/
theorem pass_enters (hnormal : (monAt s i).limpActive = false) (hfault : faultOf n s i = true) :
    monAt (monitorEntry n i s) i =
      enteredMon n { monAt s i with faultActive := true } (xfAt s (monAt s i).target.toNat) ∧
    (monitorEntry n i s).xfs =
      s.xfs.set (monAt s i).target.toNat (limpOverride (monAt s i) (xfAt s (monAt s i).target.toNat)) := by
  have hk := monAt_beforeLimp_of hvalid hfault
  rw [monitorEntry_eq_limpFsm hvalid, hfault,
    limpFsm_enter ((limpRuns_beforeLimp_iff hvalid n).mpr hruns) (by rw [hk]; exact hnormal), hk, xfAt_beforeLimp]
  exact ⟨monAt_setMon_beforeLimp hvalid n _, by rw [setXf_xfs, setMon_xfs, beforeLimp_xfs]; rfl⟩

/-- NORMAL with no fault and LIMP with one (44_fault_monitor.md R252, R254). -/
theorem pass_moves {f : Bool} (hstate : (monAt s i).limpActive = f) (hfault : faultOf n s i = f) :
    monAt (monitorEntry n i s) i = { monAt s i with faultActive := f, fctMs := stepMs n } ∧
    (monitorEntry n i s).xfs = s.xfs := by
  have hk := monAt_beforeLimp_of hvalid hfault
  rw [monitorEntry_eq_limpFsm hvalid, hfault,
    limpFsm_moves ((limpRuns_beforeLimp_iff hvalid n).mpr hruns) (by rw [hk]; exact hstate), hk]
  exact ⟨monAt_setMon_beforeLimp hvalid n _, beforeLimp_xfs n i s⟩

/-- LIMP, no fault, delay elapsed (44_fault_monitor.md R253). -/
theorem pass_restores (hlimp : (monAt s i).limpActive = true) (hclear : faultOf n s i = false)
    (helapsed : delayElapsed n (monAt s i) = true) :
    monAt (monitorEntry n i s) i = { monAt s i with faultActive := false, limpActive := false, fctMs := stepMs n } ∧
    (monitorEntry n i s).xfs =
      s.xfs.set (monAt s i).target.toNat (limpRestore (monAt s i) (xfAt s (monAt s i).target.toNat)) := by
  have hk := monAt_beforeLimp_of hvalid hclear
  rw [monitorEntry_eq_limpFsm hvalid, hclear,
    limpFsm_restore ((limpRuns_beforeLimp_iff hvalid n).mpr hruns) (by rw [hk]; exact hlimp) (by rw [hk]; exact helapsed),
    hk, xfAt_beforeLimp]
  exact ⟨monAt_setMon_beforeLimp hvalid n _, by rw [setXf_xfs, setMon_xfs, beforeLimp_xfs]; rfl⟩

/-- LIMP, no fault, delay not elapsed (44_fault_monitor.md R253). -/
theorem pass_holds (hlimp : (monAt s i).limpActive = true) (hclear : faultOf n s i = false)
    (hwait : ¬ delayElapsed n (monAt s i) = true) :
    monAt (monitorEntry n i s) i = { monAt s i with faultActive := false } ∧
    (monitorEntry n i s).xfs = s.xfs := by
  have hk := monAt_beforeLimp_of hvalid hclear
  rw [monitorEntry_eq_limpFsm hvalid, hclear,
    limpFsm_hold ((limpRuns_beforeLimp_iff hvalid n).mpr hruns) (by rw [hk]; exact hlimp) (by rw [hk]; exact hwait)]
  exact ⟨hk, beforeLimp_xfs n i s⟩

end

/-! ### A running machine in LIMP -/

/-- What a pass at `n` with a fault leaves of a running machine that it finds in NORMAL or in LIMP
(44_fault_monitor.md R258). -/
structure InLimp (n : U64) (i : Nat) (s t : State) : Prop where
  index : i < t.mons.length
  runs : limpRuns t (monAt t i) = true
  active : (monAt t i).limpActive = true
  tf : (monAt t i).fctMs = stepMs n
  restoreMs : (monAt t i).restoreMs = (monAt s i).restoreMs

section
variable {s : State} {i : Nat} (hi : i < s.mons.length) (hruns : limpRuns s (monAt s i) = true)
include hi hruns

/-- A fault enters LIMP, or keeps it and moves `tf` (44_fault_monitor.md R250, R252). -/
theorem limpFsm_fault_inLimp (n : U64) : InLimp n i s (limpFsm n true i s) := by
  cases hstate : (monAt s i).limpActive with
  | false =>
    have hk := monAt_setXf_setMon hi (enteredMon n (monAt s i) (xfAt s (monAt s i).target.toNat))
      (monAt s i).target.toNat (limpOverride (monAt s i) (xfAt s (monAt s i).target.toNat))
    obtain ⟨henabled, htarget⟩ := (limpRuns_iff s _).mp hruns
    rw [limpFsm_enter hruns hstate]
    constructor
    case index => simpa using hi
    case runs => rw [hk, limpRuns_iff, setXf_xfs, setMon_xfs, List.length_set]; exact ⟨henabled, htarget⟩
    case active => rw [hk]; rfl
    case tf => rw [hk]; rfl
    case restoreMs => rw [hk]; rfl
  | true =>
    have hk := monAt_setMon_self s i { monAt s i with fctMs := stepMs n } hi
    rw [limpFsm_moves hruns hstate]
    constructor
    case index => simpa using hi
    case runs => rw [hk]; exact hruns
    case active => rw [hk]; exact hstate
    case tf => rw [hk]
    case restoreMs => rw [hk]

/-- The parameters an entry saves are those it overrides: restoring them gives the transforms before the entry
(44_fault_monitor.md R258). -/
theorem limpFsm_enter_saves (hnormal : (monAt s i).limpActive = false) (n : U64) :
    let t := limpFsm n true i s
    t.xfs.set (monAt t i).target.toNat (limpRestore (monAt t i) (xfAt t (monAt t i).target.toNat)) = s.xfs := by
  obtain ⟨-, htarget⟩ := (limpRuns_iff s _).mp hruns
  have hx := xfAt_setXf_self (setMon s i (enteredMon n (monAt s i) (xfAt s (monAt s i).target.toNat)))
    (monAt s i).target.toNat (limpOverride (monAt s i) (xfAt s (monAt s i).target.toNat)) htarget
  have hsame : (enteredMon n (monAt s i) (xfAt s (monAt s i).target.toNat)).target = (monAt s i).target := rfl
  simp only [limpFsm_enter hruns hnormal, monAt_setXf_setMon hi, hsame, hx, limpRestore_entered, setXf_xfs, setMon_xfs,
    List.set_set]
  exact set_getD_self ..

end

section
variable {s t : State} {i : Nat} {n0 : U64} (h : InLimp n0 i s t)
include h

/-- The delay counts from the last pass with a fault. -/
theorem InLimp.elapsed_iff (n : U64) :
    delayElapsed n (monAt t i) = true ↔ (monAt s i).restoreMs.toNat ≤ n.toNat / 1000 - n0.toNat / 1000 := by
  rw [delayElapsed_iff, h.tf, stepMs_toNat, h.restoreMs]

/-- Passes with no fault before the delay elapses change nothing (44_fault_monitor.md R253). -/
theorem InLimp.foldl_hold {holds : List U64}
    (hwait : ∀ n ∈ holds, n.toNat / 1000 - n0.toNat / 1000 < (monAt s i).restoreMs.toNat) :
    holds.foldl (fun u n => limpFsm n false i u) t = t := by
  refine List.foldlRecOn holds _ (motive := (· = t)) rfl fun u hu n hn => ?_
  subst hu
  exact limpFsm_hold h.runs h.active fun helapsed =>
    Nat.not_le.mpr (hwait n hn) ((h.elapsed_iff n).mp helapsed)

/-- The first pass with no fault once the delay has elapsed restores (44_fault_monitor.md R253). -/
theorem InLimp.restores {n1 : U64} (helapsed : (monAt s i).restoreMs.toNat ≤ n1.toNat / 1000 - n0.toNat / 1000) :
    limpFsm n1 false i t =
      setXf (setMon t i { monAt t i with limpActive := false, fctMs := stepMs n1 })
        (monAt t i).target.toNat (limpRestore (monAt t i) (xfAt t (monAt t i).target.toNat)) :=
  limpFsm_restore h.runs h.active ((h.elapsed_iff n1).mpr helapsed)

end

/-! ### The statements -/

/-- Settles O46: Phase 4 is the ascending loop; the two cases of a monitor's validity. -/
theorem onlyValidMonitorsAct : Obligations.OnlyValidMonitorsAct := by
  refine ⟨fun s n => ascending_eq_foldl _ _ s, ?_⟩
  intro s i e n valid
  have hvalid : monValid s (monAt s i) = true ↔ valid := monValid_iff s (monAt s i)
  rw [← hvalid]
  exact ⟨fun hno => ⟨monitorEntry_invalid hno n, fastCheck_invalid hno e⟩,
    fun hyes => ⟨hyes, monitorEntry_eq_limpFsm hyes n⟩⟩

/-- Settles O47: the pass writes the signals FAULT_OUTPUT writes; the fault found is the three triggers by definition. -/
theorem faultOutputFromTriggers : Obligations.FaultOutputFromTriggers := by
  intro s i n hvalid k w f lvl
  obtain ⟨-, -, hfout, -⟩ := (monValid_iff s k).mp hvalid
  exact ⟨rfl, fun j => (sigAt_monitorEntry hvalid n j).trans (sigAt_faultOutput hfout n f j)⟩

/-- Settles O48: wake records and STATUS are those CYCLE_WAKE leaves, which `emit_wake` writes on a rising fault only; the
watched value it reads is not the fault output just written. -/
theorem cycleWakeOnRisingFault : Obligations.CycleWakeOnRisingFault := by
  intro s i n hvalid k f t
  obtain ⟨hstatus, hwakes⟩ := monitorPass_status n i s
  rw [← monitorEntry_valid hvalid] at hstatus hwakes
  obtain ⟨hevtOvf, hcmdErr⟩ := monitorEntry_status n i s
  refine ⟨monitorEntry_faultActive hvalid n, ?_, hevtOvf, hcmdErr⟩
  split
  case isTrue hrising =>
    rw [cycleWake_rising hrising, sigAt_watch_faultOutput hvalid] at hstatus hwakes
    split
    case isTrue hroom =>
      rw [emitWake_room _ _ _ _ (faultOutput n k f s) hroom] at hstatus hwakes
      rw [hstatus, hwakes]
      exact ⟨rfl, rfl, rfl⟩
    case isFalse hfull =>
      rw [emitWake_full _ _ _ _ (faultOutput n k f s) hfull] at hstatus hwakes
      rw [hstatus, hwakes]
      exact ⟨rfl, rfl, rfl⟩
  case isFalse hquiet =>
    rw [cycleWake_quiet hquiet] at hstatus hwakes
    exact ⟨hwakes, hstatus⟩

/-- Settles O49: each line of the table is one kind of pass, `pass_enters`, `pass_moves`, `pass_restores`, `pass_holds` or
`pass_frozen`. -/
theorem limpHomeTransitions : Obligations.LimpHomeTransitions := by
  intro s i n hvalid k f x nms t
  have ht : t = _ := monitorEntry_only n i s
  have helapsed : delayElapsed n k = true ↔ k.restoreMs.toNat ≤ n.toNat / 1000 - k.fctMs.toNat := delayElapsed_iff n k
  refine ⟨fun j hj => monAt_monitorEntry_ne hj n s, by rw [ht], ?_⟩
  split
  case isTrue hruns =>
    split
    case isTrue hnormal =>
      split
      case isTrue hfault => rw [← limpOverride_eq]; exact pass_enters hvalid hruns hnormal hfault
      case isFalse hnoFault => exact pass_moves hvalid hruns hnormal (Bool.eq_false_of_not_eq_true hnoFault)
    case isFalse hnotNormal =>
      have hlimp := Bool.eq_true_of_not_eq_false hnotNormal
      split
      case isTrue hfault => exact pass_moves hvalid hruns hlimp hfault
      case isFalse hnoFault =>
        have hclear := Bool.eq_false_of_not_eq_true hnoFault
        split
        case isTrue hdelay => exact pass_restores hvalid hruns hlimp hclear (helapsed.mpr hdelay)
        case isFalse hdelay => exact pass_holds hvalid hruns hlimp hclear (mt helapsed.mp hdelay)
  case isFalse hfrozen => exact pass_frozen hvalid hfrozen n

/-- Settles O50: the pass at `n0` leaves the machine in LIMP (`InLimp`), from which the delay is held and then restored. -/
theorem hysteresisHoldsThenRestores : Obligations.HysteresisHoldsThenRestores := by
  intro s i n0 holds n1 hi hruns hwait helapsed limp k x back
  have hlimp : InLimp n0 i s limp := limpFsm_fault_inLimp hi hruns n0
  have hback : back = _ := hlimp.restores helapsed
  refine ⟨hlimp.active, ?tf, hlimp.foldl_hold hwait, ?normal, ?restored, fun hnormal => ?entry⟩
  case tf => rw [hlimp.tf, stepMs_toNat]
  case normal => rw [hback, monAt_setXf_setMon hlimp.index]
  case restored => rw [hback]; rfl
  case entry => rw [hback]; exact limpFsm_enter_saves hi hruns hnormal n0

end Sys2Proof.Machine

/-! Phase 6, entry by entry: when an entry fires, what a firing writes, and the output events the loop appends
(46_output_scheduler.md R290 to R296). -/

namespace Sys2Proof.Machine

/-! ### One entry -/

/-- The iteration of an entry that is enabled and due is its firing (46_output_scheduler.md R290). -/
theorem cyclicEntry_fires {n : U64} {c : Nat} {s : State}
    (h : (cycEnabled s (cycAt s c) && cycDue n (cycAt s c)) = true) :
    cyclicEntry n c s = fireCyclic n c (cycAt s c) s := if_pos h

/-- The iteration of an entry that is disabled or not due changes nothing (46_output_scheduler.md R291, R293). -/
theorem cyclicEntry_idle {n : U64} {c : Nat} {s : State}
    (h : ¬ (cycEnabled s (cycAt s c) && cycDue n (cycAt s c)) = true) : cyclicEntry n c s = s := if_neg h

/-- The grounds on which an entry does nothing are those on which it does not fire (46_output_scheduler.md R291, R293). -/
theorem cycIdle_iff (n : U64) (s : State) (e : CyclicEntry) :
    e.period = 0#32 ∨ s.sigs.length ≤ e.src.toNat ∨ n.toNat < e.dl.toNat ↔ ¬ (cycEnabled s e && cycDue n e) = true := by
  rw [cycFires_iff, not_and_or, not_and_or, not_ne_iff, Nat.not_lt, Nat.not_le]

/-- `append_out` appends its event where there is room (46_output_scheduler.md R292). -/
theorem appendOut_outs (tgt v : Word) (ts : U64) (s : State) :
    (appendOut tgt v ts s).outs = if s.outs.length < s.maxOutputEvents then s.outs ++ [⟨tgt, v, ts⟩] else s.outs := by
  unfold appendOut
  split <;> rfl

/-- In a buffer within its capacity, appending where there is room is appending and cutting at the capacity
(46_output_scheduler.md R295). -/
theorem appendOut_outs_take (tgt v : Word) (ts : U64) (s : State) (hbound : s.outs.length ≤ s.maxOutputEvents) :
    (appendOut tgt v ts s).outs = (s.outs ++ [(⟨tgt, v, ts⟩ : OutEvent)]).take s.maxOutputEvents := by
  rw [appendOut_outs]
  split
  case isTrue hroom => rw [List.take_of_length_le (by simpa using hroom)]
  case isFalse hfull =>
    have hlength : s.outs.length = s.maxOutputEvents := by omega
    rw [← hlength, List.take_left]

/-- A firing, field by field: the output event where there is room, and the deadline (46_output_scheduler.md R294, R295). -/
theorem fireCyclic_eq (n : U64) (c : Nat) (e : CyclicEntry) (s : State) :
    fireCyclic n c e s = { s with
      outs := if s.outs.length < s.maxOutputEvents then s.outs ++ [⟨e.target, (sigAt s e.src.toNat).value, n⟩] else s.outs
      cycs := s.cycs.set c { e with dl := BitVec.ofNat 64 (e.dl.toNat + e.period.toNat) } } := by
  rw [← advanceDeadline_eq, ← appendOut_outs, fireCyclic, appendOut_only]
  rfl

/-! ### The deadlines of the whole table -/

/-- A table whose entries are those of another under `f` is that table mapped. -/
theorem eq_map_of_getD {l m : List α} {f : α → α} (d : α) (hlength : m.length = l.length)
    (hentry : ∀ i, m.getD i d = f (l.getD i d)) : m = l.map f := by
  refine List.ext_getElem (by rw [hlength, List.length_map]) fun i hm hl => ?_
  rw [← List.getD_eq_getElem m d hm, hentry, List.getElem_map, List.getD_eq_getElem l d (hlength ▸ hm)]

/-- Phase 6 moves the deadline of each entry that fires by one period, and leaves the others (46_output_scheduler.md
R294). -/
theorem cyclicPhase_cycs (n : U64) (s : State) :
    (cyclicPhase n s).cycs = s.cycs.map fun e => if cycEnabled s e && cycDue n e then advanceDeadline e else e :=
  eq_map_of_getD CyclicEntry.zero (cyclicPhase_cycs_length n s) (cycAt_cyclicPhase n s)

/-! ### The output events of the whole table -/

/-- The event entry `c` outputs, if it fires (46_output_scheduler.md R295). -/
def cycOut (n : U64) (s : State) (c : Nat) : Option OutEvent :=
  if cycEnabled s (cycAt s c) && cycDue n (cycAt s c) then
    some ⟨(cycAt s c).target, (sigAt s (cycAt s c).src.toNat).value, n⟩
  else none

/-- The event of an entry depends on the entry and on the signals only. -/
theorem cycOut_congr {s t : State} {c : Nat} (hsigs : s.sigs = t.sigs) (hentry : cycAt s c = cycAt t c) (n : U64) :
    cycOut n s c = cycOut n t c := by
  have henabled : cycEnabled s = cycEnabled t := by
    funext e
    simp only [cycEnabled, sigInRange, hsigs]
  rw [cycOut, cycOut, henabled, hentry, sigAt_congr hsigs]

/-- One iteration outputs the event of its entry, if it has one, as far as the buffer has room (46_output_scheduler.md
R295). -/
theorem cyclicEntry_outs (n : U64) (c : Nat) (s : State) (hbound : s.outs.length ≤ s.maxOutputEvents) :
    (cyclicEntry n c s).outs = (s.outs ++ (cycOut n s c).toList).take s.maxOutputEvents := by
  by_cases hfires : (cycEnabled s (cycAt s c) && cycDue n (cycAt s c)) = true
  case pos =>
    rw [cyclicEntry_fires hfires, fireCyclic, setCyc_outs, appendOut_outs_take _ _ _ s hbound, cycOut, if_pos hfires,
      Option.toList_some]
  case neg =>
    rw [cyclicEntry_idle hfires, cycOut, if_neg hfires, Option.toList_none, List.append_nil,
      List.take_of_length_le hbound]

/-- What is cut off a list once is cut off after an append too. -/
theorem take_append_of_take (l r : List α) (m : Nat) : (l.take m ++ r).take m = (l ++ r).take m := by
  rw [List.take_append, List.take_append, List.take_take, min_self, List.length_take]
  congr 2
  omega

/-- The first `k` iterations output the events of the entries below `k`, in ascending index: an iteration finds its entry
and the signals as they were at the start, and what an earlier one left of the buffer (46_output_scheduler.md R296). -/
theorem ascending_cyclicEntry_outs (n : U64) (s : State) (hbound : s.outs.length ≤ s.maxOutputEvents) (k : Nat) :
    (ascending k (cyclicEntry n) s).outs =
      (s.outs ++ (List.range k).filterMap (cycOut n s)).take s.maxOutputEvents := by
  induction k with
  | zero => simp [List.take_of_length_le hbound]
  | succ k ih =>
    have honly := ascending_only_cyclic k _ s (cyclicEntry_only n)
    have hcap : (ascending k (cyclicEntry n) s).maxOutputEvents = s.maxOutputEvents := by rw [honly]
    have hsigs : (ascending k (cyclicEntry n) s).sigs = s.sigs := by rw [honly]
    have hlast : cycOut n (ascending k (cyclicEntry n) s) k = cycOut n s k :=
      cycOut_congr hsigs ((ascending_cyc n s k).1 k le_rfl) n
    have hroom : (ascending k (cyclicEntry n) s).outs.length ≤ (ascending k (cyclicEntry n) s).maxOutputEvents := by
      rw [ih, hcap]
      exact List.length_take_le ..
    have hone : [k].filterMap (cycOut n s) = (cycOut n s k).toList := by
      cases hk : cycOut n s k <;> simp [hk]
    rw [ascending_succ, cyclicEntry_outs n k _ hroom, hcap, hlast, ih, take_append_of_take, List.append_assoc,
      List.range_succ, List.filterMap_append, hone]

/-! ### The statements -/

/-- Settles O52: an entry does not fire on exactly the statement's grounds; a firing is `fireCyclic_eq`. -/
theorem cyclicEntryFires : Obligations.CyclicEntryFires := by
  intro s n c e
  split
  case isTrue hidle => exact cyclicEntry_idle ((cycIdle_iff n s e).mp hidle)
  case isFalse hfires =>
    rw [cyclicEntry_fires (not_not.mp (mt (cycIdle_iff n s e).mpr hfires))]
    exact fireCyclic_eq n c e s

/-- Settles O53: the deadlines entry by entry, the output events by induction over the loop. -/
theorem lowerEntriesWinOutputSlots : Obligations.LowerEntriesWinOutputSlots := by
  intro s n fires
  have hfires : ∀ e, (cycEnabled s e && cycDue n e) = true ↔ fires e := cycFires_iff n s
  refine ⟨?deadlines, by rw [cyclicPhase_only], fun hbound => ?events⟩
  case deadlines =>
    rw [cyclicPhase_cycs]
    exact List.map_congr_left fun e _ => if_congr (hfires e) (advanceDeadline_eq e) rfl
  case events =>
    have hout : ∀ c ∈ List.range s.cycs.length, cycOut n s c = _ := fun c _ => if_congr (hfires (cycAt s c)) rfl rfl
    rw [← List.filterMap_congr hout]
    exact ascending_cyclicEntry_outs n s hbound s.cycs.length

end Sys2Proof.Machine

/-! The bus error (60_exceptions.md R311): the six BUS_ERROR rows raise it and nothing else, and a transaction of a wrong size
or alignment is one of them. -/

namespace Sys2Proof.Machine

section
variable (s : State) (write : Bool) (addr : Addr) (data : Word)

theorem exec_busErrorSize0 : exec (.busErrorSize0 write addr data) s = .next (raiseBusError write s) := rfl

theorem exec_busErrorSize1 : exec (.busErrorSize1 write addr data) s = .next (raiseBusError write s) := rfl

theorem exec_busErrorSize3 : exec (.busErrorSize3 write addr data) s = .next (raiseBusError write s) := rfl

theorem exec_busErrorMisaligned1 : exec (.busErrorMisaligned1 write addr data) s = .next (raiseBusError write s) := rfl

theorem exec_busErrorMisaligned2 : exec (.busErrorMisaligned2 write addr data) s = .next (raiseBusError write s) := rfl

theorem exec_busErrorMisaligned3 : exec (.busErrorMisaligned3 write addr data) s = .next (raiseBusError write s) := rfl

/-- The bus error sets the response only (60_exceptions.md R311). -/
theorem raiseBusError_only :
    raiseBusError write s = { s with resp := .error (if write then none else some 0#32) } := rfl

variable {addr}

/-- Whichever BUS_ERROR row a wrong size or alignment decodes to, it raises the bus error (30_encoding.md R103,
60_exceptions.md R311). -/
theorem exec_decodeTransaction_busError {size : BitVec 2} (h : size ≠ 2#2 ∨ addr.extractLsb' 0 2 ≠ 0#2) :
    exec (decodeTransaction (mkTxn write size addr data)) s = .next (raiseBusError write s) := by
  obtain hi | hi | hi | hi | hi | hi := decodeTransaction_busError write data h
  · rw [hi, exec_busErrorSize0]
  · rw [hi, exec_busErrorSize1]
  · rw [hi, exec_busErrorSize3]
  · rw [hi, exec_busErrorMisaligned1]
  · rw [hi, exec_busErrorMisaligned2]
  · rw [hi, exec_busErrorMisaligned3]

end

/-- An idle block that takes a transaction of a wrong size or alignment raises the bus error (60_exceptions.md R311). -/
theorem step_busError {s : State} {t : Txn} {rest : List PortEvent} (hidle : s.seq = .idle)
    (hport : s.port = .transaction t :: rest) (h : txnSize t ≠ 2#2 ∨ (txnAddr t).extractLsb' 0 2 ≠ 0#2) :
    step s = .next (raiseBusError (txnWrite t) { s with port := rest }) := by
  rw [step_transaction hidle hport, ← exec_decodeTransaction_busError _ (txnWrite t) (txnData t) h, mkTxn_fields]

/-- Settles O6: the port by `step_busError`, then the six rows; each raises the bus error. -/
theorem busErrorLeavesState : Obligations.BusErrorLeavesState := by
  refine ⟨fun s t rest hidle hport h => ?_, fun s write addr data => ?_⟩
  · rw [step_busError hidle hport h, raiseBusError_only]
  · rw [← raiseBusError_only]
    exact ⟨exec_busErrorSize0 s write addr data, exec_busErrorSize1 s write addr data,
      exec_busErrorSize3 s write addr data, exec_busErrorMisaligned1 s write addr data,
      exec_busErrorMisaligned2 s write addr data, exec_busErrorMisaligned3 s write addr data⟩

end Sys2Proof.Machine

/-! The decoder undoes the encoder, row by row (30_encoding.md R101, R103, R104, R108), and every decoded operation is
well-formed. -/

namespace Sys2Proof

section
variable (en : Bool) (nin : BitVec 4)

/-- METHOD 5 (30_encoding.md R109). -/
theorem decodeSelector_reserved5 : decodeSelector (mkSelector en 5#3 nin) = .methodReserved5 en (legalNin nin) := by
  simp [decodeSelector]

/-- METHOD 6 (30_encoding.md R109). -/
theorem decodeSelector_reserved6 : decodeSelector (mkSelector en 6#3 nin) = .methodReserved6 en (legalNin nin) := by
  simp [decodeSelector]

/-- METHOD 7 (30_encoding.md R109). -/
theorem decodeSelector_reserved7 : decodeSelector (mkSelector en 7#3 nin) = .methodReserved7 en (legalNin nin) := by
  simp [decodeSelector]

end

/-- A selector is well-formed, as its `NIN` is the stored one (30_encoding.md R110). -/
theorem decodeSelector_wellFormed (w : Word) : (decodeSelector w).wellFormed = true := by
  have hnin : decide ((legalNin (w.extractLsb' 8 4)).toNat ≤ 8) = true := decide_eq_true (legalNin_le _)
  unfold decodeSelector
  split <;> exact hnin

end Sys2Proof

namespace Sys2Proof.Machine

/-- Settles O1: each row by the line of the decoder that reads it; a METHOD row's `NIN` is legal, so it is stored as
written. -/
theorem decodeInvertsEncode : Obligations.DecodeInvertsEncode := by
  intro i hwf
  cases i with
  | busErrorSize0 write addr data => exact decodeTransaction_size0 write addr data
  | busErrorSize1 write addr data => exact decodeTransaction_size1 write addr data
  | busErrorSize3 write addr data => exact decodeTransaction_size3 write addr data
  | busErrorMisaligned1 write addr data =>
    exact (decodeTransaction_size2 ..).trans (decodeWordAccess_misaligned1 _ _ (eq_of_beq hwf))
  | busErrorMisaligned2 write addr data =>
    exact (decodeTransaction_size2 ..).trans (decodeWordAccess_misaligned2 _ _ (eq_of_beq hwf))
  | busErrorMisaligned3 write addr data =>
    exact (decodeTransaction_size2 ..).trans (decodeWordAccess_misaligned3 _ _ (eq_of_beq hwf))
  | nop => exact decodeTransaction_command 0#32
  | step => exact decodeTransaction_command 1#32
  | evtPush => exact decodeTransaction_command 2#32
  | evtFlush => exact decodeTransaction_command 3#32
  | init => exact decodeTransaction_command 4#32
  | cmdReserved data =>
    exact (decodeTransaction_command data).trans (decodeCommand_reserved data (of_decide_eq_true hwf))
  | statusW1c data => exact decodeTransaction_status data
  | busRead addr data => exact (decodeTransaction_size2 ..).trans (decodeWordAccess_read _ (eq_of_beq hwf))
  | busWrite addr data =>
    obtain ⟨⟨haligned, hcmd⟩, hstatus⟩ : (addr.extractLsb' 0 2 = 0#2 ∧ addr ≠ 0x010#18) ∧ addr ≠ 0x014#18 := by
      simpa [Instr.wellFormed] using hwf
    exact (decodeTransaction_size2 ..).trans (decodeWordAccess_write _ haligned hcmd hstatus)
  | methodMin en nin => rw [encode, decode, decodeSelector_min, legalNin_of_le nin (of_decide_eq_true hwf)]
  | methodMax en nin => rw [encode, decode, decodeSelector_max, legalNin_of_le nin (of_decide_eq_true hwf)]
  | methodAverage en nin => rw [encode, decode, decodeSelector_average, legalNin_of_le nin (of_decide_eq_true hwf)]
  | methodMedian en nin => rw [encode, decode, decodeSelector_median, legalNin_of_le nin (of_decide_eq_true hwf)]
  | methodMajority en nin => rw [encode, decode, decodeSelector_majority, legalNin_of_le nin (of_decide_eq_true hwf)]
  | methodReserved5 en nin => rw [encode, decode, decodeSelector_reserved5, legalNin_of_le nin (of_decide_eq_true hwf)]
  | methodReserved6 en nin => rw [encode, decode, decodeSelector_reserved6, legalNin_of_le nin (of_decide_eq_true hwf)]
  | methodReserved7 en nin => rw [encode, decode, decodeSelector_reserved7, legalNin_of_le nin (of_decide_eq_true hwf)]

/-- Settles O3: each word is a closed number, and the decoder evaluates it. -/
theorem specWordsDecode : Obligations.SpecWordsDecode := by
  refine ⟨?_, ?_, ?_, ?_, ?_, ?_, ?_, ?_, ?_⟩ <;> decide

end Sys2Proof.Machine

/-! The invariant of the machine's states, operation by operation and move by move (10_state.md R33 to R35, R43;
00_scope.md R5): what each leaves of the fill of the buffers and of the merge table. -/

namespace Sys2Proof.Machine

/-! ### What the invariant rests on -/

/-- Every `NIN` is 0..8 (10_state.md R43). -/
abbrev NinsLegal (s : State) : Prop := ∀ e ∈ s.mrgs, e.nin.toNat ≤ 8

/-- The move from `s` to `t` keeps the buffers within their capacity and every `NIN` legal. -/
structure KeepsFill (s t : State) : Prop where
  bounds : Bounds s → Bounds t
  nins : NinsLegal s → NinsLegal t

/-- A move that keeps the capacities, the fill and the `NIN`s keeps the invariant. -/
theorem KeepsFill.inv {s t : State} (h : KeepsFill s t) (hparams : t.params = s.params) (hinv : s.Inv) : t.Inv := by
  obtain ⟨hlegal, hfifo, houts, hwakes, hnins⟩ := hinv
  obtain ⟨hfifo', houts', hwakes'⟩ := h.bounds ⟨hfifo, houts, hwakes⟩
  exact ⟨hparams ▸ hlegal, hfifo', houts', hwakes', h.nins hnins⟩

theorem KeepsFill.refl (s : State) : KeepsFill s s := ⟨id, id⟩

theorem KeepsFill.trans {s t u : State} (hst : KeepsFill s t) (htu : KeepsFill t u) : KeepsFill s u :=
  ⟨htu.bounds ∘ hst.bounds, htu.nins ∘ hst.nins⟩

/-- The response is no part of the fill. -/
theorem KeepsFill.respond {s t : State} (h : KeepsFill s t) (r : BusResp) : KeepsFill s (respond t r) := ⟨h.bounds, h.nins⟩

/-- Nor is the sequencer's position. -/
theorem KeepsFill.atSeq {s t : State} (h : KeepsFill s t) (q : Sequencer) : KeepsFill s (atSeq q t) := ⟨h.bounds, h.nins⟩

/-! ### The reset state -/

/-- RESET_ALL empties the FIFO, both buffers and every merge entry (70_reset_and_hazards.md R340). -/
theorem resetAll_keepsFill (s : State) : KeepsFill s (resetAll s) where
  bounds _ := ⟨Nat.zero_le _, Nat.zero_le _, Nat.zero_le _⟩
  nins _ := by
    intro e he
    obtain ⟨-, -, rfl⟩ := List.mem_map.mp he
    decide

/-- The reset state of a legal build meets the invariant (70_reset_and_hazards.md R340). -/
theorem resetOf_inv {p : Params} (hp : p.legal) : (State.resetOf p).Inv := by
  refine ⟨?_, Nat.zero_le _, Nat.zero_le _, Nat.zero_le _, fun e he => ?_⟩
  · rwa [resetOf_params]
  · rw [List.eq_of_mem_replicate he]
    decide

/-! ### A register write -/

/-- The capacities of the FIFO and of the buffers are parameters of the build. -/
theorem bufferCaps_of_params {s t : State} (h : t.params = s.params) :
    t.maxEvents = s.maxEvents ∧ t.maxOutputEvents = s.maxOutputEvents ∧ t.maxWake = s.maxWake :=
  ⟨congrArg Params.maxEvents h, congrArg Params.maxOutputEvents h, congrArg Params.maxWake h⟩

/-- A written merge word leaves `NIN` as it was, or stores it legal (30_encoding.md R110). -/
theorem writeMrg_nin (e : MergeEntry) (w : Word) (f : MrgField) (h : e.nin.toNat ≤ 8) :
    (writeMrg e w f).nin.toNat ≤ 8 := by
  cases f with
  | ctrl => exact legalNin_le _
  | _ => exact h

/-- An entry of the merge table has a legal `NIN` where the table does; so has the entry past it, as after reset. -/
theorem mrgAt_nin {s : State} (h : NinsLegal s) (m : Nat) : (mrgAt s m).nin.toNat ≤ 8 := by
  by_cases hm : m < s.mrgs.length
  · rw [mrgAt, List.getD_eq_getElem _ _ hm]
    exact h _ (List.getElem_mem hm)
  · rw [mrgAt, List.getD_eq_default _ _ (Nat.le_of_not_lt hm)]
    decide

/-- A register write fills no buffer and keeps every `NIN` legal (40_host_interface.md R132, 30_encoding.md R110). -/
theorem writeReg_keepsFill (s : State) (w : Word) (r : Reg) : KeepsFill s (writeReg s w r) where
  bounds h := by
    obtain ⟨hfifo, houts, hwakes, -⟩ := writeReg_hidden s w r
    obtain ⟨hevents, houtputs, hwake⟩ := bufferCaps_of_params (writeReg_params s w r)
    rwa [Bounds, hfifo, houts, hwakes, hevents, houtputs, hwake]
  nins h := by
    cases r with
    | mrg m f =>
      intro e he
      obtain hold | rfl := List.mem_or_eq_of_mem_set he
      · exact h e hold
      · exact writeMrg_nin _ w f (mrgAt_nin h m)
    | _ => exact h

theorem writeWord_keepsFill (s : State) (a : Addr) (w : Word) : KeepsFill s (writeWord s a w) := by
  unfold writeWord
  split
  · exact writeReg_keepsFill s w _
  · exact .refl s

/-! ### The operations -/

/-- EVT_PUSH queues an event only where there is room (40_host_interface.md R136). -/
theorem pushEvent_keepsFill (s : State) : KeepsFill s (pushEvent s) := by
  by_cases hroom : s.fifo.length < s.maxEvents
  · rw [pushEvent_room hroom]
    exact ⟨fun ⟨_, houts, hwakes⟩ => ⟨by simpa using hroom, houts, hwakes⟩, id⟩
  · rw [pushEvent_full hroom]
    exact ⟨id, id⟩

/-- The phases of a step fill each buffer up to its capacity at most, and write no merge entry. -/
theorem runPhases_keepsFill (n : U64) (s : State) : KeepsFill s (runPhases n s) :=
  ⟨runPhases_bounds n s, fun h => by rwa [NinsLegal, runPhases_mrgs]⟩

theorem runPhase_keepsFill (p : Phase) (n : U64) (s : State) : KeepsFill s (runPhase p n s) :=
  ⟨runPhase_bounds p n s, fun h => by rwa [NinsLegal, runPhase_mrgs]⟩

/-- A METHOD row writes the signal table only. -/
theorem atMergeEntry_keepsFill (vote : List Int → Nat → Int × Status) (en : Bool) (nin : BitVec 4) (s : State) :
    KeepsFill s (atMergeEntry (mergePass vote en nin) s) := by
  rw [atMergeEntry_only]
  exact ⟨id, id⟩

/-- Every operation keeps the fill. Those not named write neither a buffer nor a merge entry. -/
theorem exec_keepsFill {i : Instr} {s t : State} (h : exec i s = .next t) : KeepsFill s t := by
  cases i <;> cases h
  case step => exact ((runPhases_keepsFill s.now s).atSeq .idle).respond _
  case evtPush => exact (pushEvent_keepsFill s).respond _
  case evtFlush => exact ⟨fun ⟨_, houts, hwakes⟩ => ⟨Nat.zero_le _, houts, hwakes⟩, id⟩
  case init => exact (resetAll_keepsFill s).respond _
  case busWrite addr data => exact (writeWord_keepsFill s addr data).respond _
  case methodMin | methodMax | methodAverage | methodMedian | methodMajority => exact atMergeEntry_keepsFill _ _ _ s
  all_goals exact ⟨id, id⟩

/-! ### The moves of the machine -/

theorem advanceSeq_keepsFill (s : State) : KeepsFill s (advanceSeq s) := by
  rw [advanceSeq_only]
  exact ⟨id, id⟩

theorem afterSelector_keepsFill {i : Instr} {s t : State} (h : afterSelector (exec i s) = .next t) : KeepsFill s t := by
  obtain ⟨u, hu⟩ := exec_total i s
  rw [hu] at h
  cases h
  exact (exec_keepsFill hu).trans (advanceSeq_keepsFill u)

/-- Each of the six moves keeps the fill. -/
theorem step_keepsFill {s t : State} (h : step s = .next t) : KeepsFill s t := by
  obtain ⟨rest, -, hstep⟩ | ⟨w, rest, -, -, hstep⟩ | ⟨-, -, hstep⟩ | ⟨m, n, e, -, -, -, hstep⟩ | ⟨m, n, -, -, -, hstep⟩ |
    ⟨p, n, -, -, -, hstep⟩ := step_cases s <;> rw [hstep] at h
  · cases h
    exact ⟨(resetAll_keepsFill s).bounds, (resetAll_keepsFill s).nins⟩
  · exact ⟨(exec_keepsFill h).bounds, (exec_keepsFill h).nins⟩
  · cases h
    exact .refl s
  · exact afterSelector_keepsFill h
  · cases h
    exact advanceSeq_keepsFill s
  · cases h
    exact (runPhase_keepsFill p n s).trans (advanceSeq_keepsFill _)

/-! ### The statements -/

/-- Settles O55: the capacities are constant (`step_params`), and each of the six moves keeps the fill. -/
theorem everyStepKeepsInvariant : Obligations.EveryStepKeepsInvariant := fun _ _ hinv h =>
  (step_keepsFill h).inv (step_params h) hinv

/-- Settles O56: a legal build by `resetOf_inv`, of which the reference build is one. -/
theorem resetMeetsInvariant : Obligations.ResetMeetsInvariant :=
  ⟨resetOf_inv (by decide), fun _ hp => resetOf_inv hp⟩

end Sys2Proof.Machine

/-! The words of the window: what each reads, field by field, what a write of it stores and leaves, and the reserved
offsets (10_state.md sections 1 to 8; 20_memory.md R71 to R73; 40_host_interface.md R131, R132). -/

namespace Sys2Proof.Machine

/-! ### A word as the sum of its fields -/

/-- Two fields side by side are the low one, and the high one shifted above it. -/
theorem setWidth_append {m n : Nat} (hi : BitVec m) (lo : BitVec n) (w : Nat) :
    (hi ++ lo).setWidth w = lo.setWidth w ||| hi.setWidth w <<< n := by
  ext i h
  simp only [BitVec.getElem_setWidth, BitVec.getLsbD_append, BitVec.getElem_or, BitVec.getElem_shiftLeft]
  by_cases hlow : i < n
  · simp [hlow]
  · simp [hlow, BitVec.getLsbD_of_ge lo i (Nat.le_of_not_lt hlow)]

/-- A one-bit field at bit 0 of a word. -/
theorem setWidth_ofBool (b : Bool) : (BitVec.ofBool b).setWidth 32 = if b then 1#32 else 0#32 := by cases b <;> rfl

/-- A one-bit field, shifted. -/
theorem flag_shiftLeft (b : Bool) (x : Word) (k : Nat) :
    (if b then x else 0#32) <<< k = if b then x <<< k else 0#32 := by cases b <;> simp

/-- A field with zeros above it is the field widened (30_encoding.md R106). -/
theorem zero_append_eq_setWidth {n : Nat} (m : Nat) (x : BitVec n) : 0#m ++ x = x.setWidth (m + n) := by
  refine (BitVec.setWidth_eq _).symm.trans ((setWidth_append _ _ _).trans ?_)
  simp

theorem idWord_eq (i : SigId) : idWord i = i.setWidth 32 := zero_append_eq_setWidth 16 i

theorem byteWord_eq (b : BitVec 8) : byteWord b = b.setWidth 32 := zero_append_eq_setWidth 24 b

theorem bitWord_eq (b : Bool) : bitWord b = if b then 1#32 else 0#32 :=
  (zero_append_eq_setWidth 31 (BitVec.ofBool b)).trans (setWidth_ofBool b)

/-- STATUS reads its four flags in bits 0 to 3 (10_state.md R28). -/
theorem flagsWord_eq (f : Flags) :
    flagsWord f = (if f.evtOvf then 0x1#32 else 0#32) ||| (if f.wakePend then 0x2#32 else 0#32) |||
      (if f.wakeOvf then 0x4#32 else 0#32) ||| (if f.cmdErr then 0x8#32 else 0#32) := by
  refine (BitVec.setWidth_eq _).symm.trans ((setWidth_append _ _ 32).trans ?_)
  simp only [setWidth_append, BitVec.shiftLeft_or_distrib, ← BitVec.shiftLeft_add, setWidth_ofBool, flag_shiftLeft]
  simp [BitVec.or_assoc]

/-- MRG_CTRL reads EN at bit 0, METHOD at bit 4 and NIN at bit 8 (10_state.md R43). -/
theorem mrgCtrlWord_eq (e : MergeEntry) :
    mrgCtrlWord e = (if e.en then 0x1#32 else 0#32) ||| e.method.setWidth 32 <<< 4 ||| e.nin.setWidth 32 <<< 8 := by
  refine (BitVec.setWidth_eq _).symm.trans ((setWidth_append _ _ 32).trans ?_)
  simp only [setWidth_append, BitVec.shiftLeft_or_distrib, ← BitVec.shiftLeft_add, setWidth_ofBool]
  simp [BitVec.or_assoc]

/-- MON_CTRL reads its ten bits (10_state.md R47). -/
theorem monCtrlWord_eq (c : MonCtrl) :
    monCtrlWord c =
      (if c.en then 0x1#32 else 0#32) ||| (if c.chkStale then 0x2#32 else 0#32) |||
      (if c.chkRange then 0x4#32 else 0#32) ||| (if c.chkStatus then 0x8#32 else 0#32) |||
      (if c.wakeEn then 0x10#32 else 0#32) ||| (if c.cycWakeEn then 0x20#32 else 0#32) |||
      (if c.limpEn then 0x100#32 else 0#32) ||| (if c.limpScaleEn then 0x200#32 else 0#32) |||
      (if c.limpMinEn then 0x400#32 else 0#32) ||| (if c.limpMaxEn then 0x800#32 else 0#32) := by
  refine (BitVec.setWidth_eq _).symm.trans ((setWidth_append _ _ 32).trans ?_)
  simp only [setWidth_append, BitVec.shiftLeft_or_distrib, ← BitVec.shiftLeft_add, setWidth_ofBool, flag_shiftLeft]
  simp [BitVec.or_assoc]

/-- MON_RT reads LIMP_ACTIVE and FAULT_ACTIVE, and SV_HAS_MIN and SV_HAS_MAX at bit 8 (10_state.md R55). -/
theorem monRtWord_eq (k : Monitor) :
    monRtWord k = (if k.limpActive then 0x1#32 else 0#32) ||| (if k.faultActive then 0x2#32 else 0#32) |||
      (if k.svHasMin then 0x100#32 else 0#32) ||| (if k.svHasMax then 0x200#32 else 0#32) := by
  refine (BitVec.setWidth_eq _).symm.trans ((setWidth_append _ _ 32).trans ?_)
  simp only [setWidth_append, BitVec.shiftLeft_or_distrib, ← BitVec.shiftLeft_add, setWidth_ofBool, flag_shiftLeft]
  simp [BitVec.or_assoc]

/-- XF_CTRL reads its three bits (10_state.md section 8). -/
theorem xfCtrlWord_eq (x : Xform) :
    xfCtrlWord x =
      (if x.en then 0x1#32 else 0#32) ||| (if x.hasMin then 0x2#32 else 0#32) ||| (if x.hasMax then 0x4#32 else 0#32) := by
  refine (BitVec.setWidth_eq _).symm.trans ((setWidth_append _ _ 32).trans ?_)
  simp only [setWidth_append, BitVec.shiftLeft_or_distrib, ← BitVec.shiftLeft_add, setWidth_ofBool, flag_shiftLeft]
  simp [BitVec.or_assoc]

/-! ### The buffer entries -/

/-- An output entry at or past the count is zero (10_state.md R36). -/
theorem outAt_of_le {s : State} {i : Nat} (h : s.outs.length ≤ i) : outAt s i = ⟨0#32, 0#32, 0#64⟩ :=
  List.getD_eq_default _ _ h

/-- A wake record at or past the count is zero (10_state.md R37). -/
theorem wakeAt_of_le {s : State} {i : Nat} (h : s.wakes.length ≤ i) : wakeAt s i = ⟨0#8, 0#32, 0#32, false⟩ :=
  List.getD_eq_default _ _ h

theorem outAt_of_getElem? {s : State} {i : Nat} {o : OutEvent} (h : s.outs[i]? = some o) : outAt s i = o := by
  rw [outAt, List.getD_eq_getElem?_getD, h, Option.getD_some]

theorem wakeAt_of_getElem? {s : State} {i : Nat} {w : WakeRec} (h : s.wakes[i]? = some w) : wakeAt s i = w := by
  rw [wakeAt, List.getD_eq_getElem?_getD, h, Option.getD_some]

/-! ### Reserved offsets -/

/-- BUS_READ of a reserved offset responds 0 (20_memory.md R73). -/
theorem exec_busRead_reserved {s : State} {a : Addr} (h : regAt s.params a = none) (data : Word) :
    exec (.busRead a data) s = .next { s with resp := .ok (some 0#32) } := by
  have hword : readWord s a = 0#32 := by rw [readWord, h]
  rw [← hword]
  rfl

/-- A reserved offset ignores a write (20_memory.md R73). -/
theorem writeWord_reserved {s : State} {a : Addr} (h : regAt s.params a = none) (w : Word) : writeWord s a w = s := by
  rw [writeWord, h]

/-- BUS_WRITE of any offset is the write at the offset, and an OK response (40_host_interface.md R132). -/
theorem exec_busWrite (s : State) (a : Addr) (data : Word) :
    exec (.busWrite a data) s = .next (respond (writeWord s a data) (.ok none)) := rfl

/-! ### The frame of a write -/

/-- A write leaves what every other offset reads (40_host_interface.md R132). -/
theorem readWord_writeWord_ne (s : State) (w : Word) {a b : Addr} (h : b ≠ a) :
    readWord (writeWord s a w) b = readWord s b := by
  cases ha : regAt s.params a with
  | none => rw [writeWord_reserved ha]
  | some r =>
    unfold readWord
    rw [writeWord_params]
    cases hb : regAt s.params b with
    | none => rfl
    | some r' =>
      have hne : r ≠ r' := fun heq => h (regAt_inj hb (heq ▸ ha))
      rw [writeWord_of w ha]
      exact readReg_writeReg_ne s w hne

/-- What no word shows is left by a write at any offset (40_host_interface.md R132). -/
theorem writeWord_hidden (s : State) (a : Addr) (w : Word) :
    (writeWord s a w).fifo = s.fifo ∧ (writeWord s a w).outs = s.outs ∧ (writeWord s a w).wakes = s.wakes ∧
    (writeWord s a w).stepCnt = s.stepCnt ∧ (writeWord s a w).seq = s.seq ∧ (writeWord s a w).port = s.port ∧
    ∀ i, (sigAt (writeWord s a w) i).updated = (sigAt s i).updated := by
  cases ha : regAt s.params a with
  | none =>
    rw [writeWord_reserved ha]
    exact ⟨rfl, rfl, rfl, rfl, rfl, rfl, fun _ => rfl⟩
  | some r =>
    rw [writeWord_of w ha]
    exact writeReg_hidden s w r

/-! ### The reset state -/

/-- An entry of a table of equal entries is that entry, past its end too. -/
theorem getD_replicate (n i : Nat) (d : α) : (List.replicate n d).getD i d = d := by
  by_cases h : i < n
  · rw [List.getD_eq_getElem _ _ (by rwa [List.length_replicate]), List.getElem_replicate]
  · exact List.getD_eq_default _ _ (by rw [List.length_replicate]; omega)

/-- After reset every word but LQE_ID and the capability registers reads 0 (70_reset_and_hazards.md R340). -/
theorem readReg_resetOf (p : Params) (r : Reg) (hid : r ≠ .lqeId) (hsig : r ≠ .capsSig) (htbl : r ≠ .capsTbl)
    (hbuf : r ≠ .capsBuf) : readReg (State.resetOf p) r = 0#32 := by
  cases r with
  | lqeId | capsSig | capsTbl | capsBuf => contradiction
  | out i f => exact readReg_out_of_empty rfl i f
  | wake i f => exact readReg_wake_of_empty rfl i f
  | mrg m f =>
    have hzero : mrgAt (State.resetOf p) m = MergeEntry.zero := getD_replicate ..
    rw [readReg, hzero]
    cases f <;> rfl
  | mon k f =>
    have hzero : monAt (State.resetOf p) k = Monitor.zero := getD_replicate ..
    rw [readReg, hzero]
    cases f <;> rfl
  | cyc c f =>
    have hzero : cycAt (State.resetOf p) c = CyclicEntry.zero := getD_replicate ..
    rw [readReg, hzero]
    cases f <;> rfl
  | xf t f =>
    have hzero : xfAt (State.resetOf p) t = Xform.zero := getD_replicate ..
    rw [readReg, hzero]
    cases f <;> rfl
  | sig i f =>
    have hzero : sigAt (State.resetOf p) i = Signal.zero := getD_replicate ..
    rw [readReg, hzero]
    cases f <;> rfl
  | status => exact (rfl : flagsWord Flags.zero = 0#32)
  | irqEn => exact (rfl : bitWord false = 0#32)
  | evtId => exact (rfl : idWord 0#16 = 0#32)
  | evtStatus => exact (rfl : statusWord .ok = 0#32)
  | nowHi | evtTsHi => exact (rfl : hiWord 0#64 = 0#32)
  | _ => rfl

/-! ### The statements -/

/-- Settles O7: the address map finds each word of a legal build at its offset; each word by its fields. -/
theorem readsNamedWord : Obligations.ReadsNamedWord := by
  refine ⟨fun s r data hp hr => ⟨addrOf_toNat hp hr, exec_busRead_of (regAt_addrOf hp hr) data⟩, fun s => ?_⟩
  refine ⟨rfl, flagsWord_eq s.status, rfl, rfl, rfl, rfl, fun i f hi => ?_, fun i f hi => ?_, fun i o ho => ?_,
    fun i w hw => ?_, fun i => ⟨monRtWord_eq _, rfl, rfl, rfl, rfl, rfl⟩⟩
  · rw [readReg, outAt_of_le hi]
    cases f <;> rfl
  · rw [readReg, wakeAt_of_le hi]
    cases f <;> rfl
  · simp only [readReg, outAt_of_getElem? ho]
    exact ⟨rfl, rfl, rfl, rfl⟩
  · simp only [readReg, wakeAt_of_getElem? hw]
    exact ⟨byteWord_eq _, rfl, rfl, bitWord_eq _⟩

/-- Settles O8: the address map finds nothing there. -/
theorem reservedOffsetsRazWi : Obligations.ReservedOffsetsRazWi := by
  intro s addr data h
  have hnone : regAt s.params addr = none := regAt_none h
  refine ⟨exec_busRead_reserved hnone data, ?_⟩
  rw [exec_busWrite, writeWord_reserved hnone]
  rfl

/-- Settles O12: the write by `readReg_writeReg`, the words by their fields. -/
theorem writeThenReadBack : Obligations.WriteThenReadBack := by
  refine ⟨fun s r mask data hp hr hmask => ?_, fun s => ?_, fun s i => ?_, fun s m => ?_, fun s i => ?_, fun s c => ?_,
    fun s i => ?_⟩
  · have hat : regAt s.params (addrOf r) = some r := regAt_addrOf hp hr
    exact ⟨_, exec_busWrite_of hat data, (readWord_written hat data _).trans (readReg_writeReg data hr hmask)⟩
  · exact ⟨bitWord_eq _, rfl, rfl, idWord_eq _, rfl, statusWord_eq _, rfl, rfl⟩
  · exact ⟨rfl, sigStatusWord_eq _, rfl, rfl, rfl⟩
  · exact ⟨mrgCtrlWord_eq _, idWord_eq _, rfl, idWord_eq _, idWord_eq _, idWord_eq _, idWord_eq _, idWord_eq _,
      idWord_eq _, idWord_eq _, idWord_eq _⟩
  · exact ⟨monCtrlWord_eq _, idWord_eq _, idWord_eq _, rfl, rfl, rfl, rfl, byteWord_eq _, rfl, rfl, rfl, rfl⟩
  · exact ⟨idWord_eq _, rfl, rfl, rfl, rfl⟩
  · exact ⟨xfCtrlWord_eq _, idWord_eq _, idWord_eq _, rfl, rfl, rfl⟩

/-- Settles O13: two offsets never name one word, and no register write reaches what no word shows. -/
theorem busWriteFrame : Obligations.BusWriteFrame := by
  intro s addr data
  obtain ⟨hfifo, houts, hwakes, hstepCnt, hseq, hport, hupdated⟩ := writeWord_hidden s addr data
  exact ⟨_, exec_busWrite s addr data, fun b hb => (readWord_respond ..).trans (readWord_writeWord_ne s data hb), hfifo,
    houts, hwakes, hstepCnt, hseq, writeWord_params s addr data, hport, rfl, hupdated⟩

/-- Settles O14: the word is found at its offset, and a write of it is ignored. -/
theorem readOnlyWordsIgnoreWrites : Obligations.ReadOnlyWordsIgnoreWrites := fun _ _ data hp hr hreadOnly =>
  exec_busWrite_readOnly (regAt_addrOf hp hr) hreadOnly data

/-- Settles O22: a named word at another offset is none of the four; a reserved offset reads 0. -/
theorem resetReadsZero : Obligations.ResetReadsZero := by
  intro p addr hid hsig htbl hbuf
  cases hat : regAt (State.resetOf p).params addr with
  | none => rw [readWord, hat]
  | some r =>
    have hoffset : addrOf r = addr := by
      rw [addrOf, (regAt_some hat).2, BitVec.ofNat_toNat, BitVec.setWidth_eq]
    rw [readWord_of hat]
    apply readReg_resetOf
    · rintro rfl; exact hid hoffset.symm
    · rintro rfl; exact hsig hoffset.symm
    · rintro rfl; exact htbl hoffset.symm
    · rintro rfl; exact hbuf hoffset.symm

end Sys2Proof.Machine

/-! The moves of the machine and the run of a whole step: what one move inside a step is, that the moves of a step amount to
its atomic transition, and what they hold (40_host_interface.md R150 to R153; 70_reset_and_hazards.md R342). -/

namespace Sys2Proof.Machine

/-! ### One move inside a step -/

/-- Inside a step the machine runs the phase it stands at and moves on; at a merge entry the selector of the entry is the
entry's pass, and past the table there is nothing to run (40_host_interface.md R150, 43_merge_voter.md R200). -/
theorem step_running {s : State} {p : Phase} {n : U64} (hseq : s.seq = .running p n)
    (hport : s.port.head? ≠ some .powerOnReset) : step s = .next (advanceSeq (runPhase p n s)) := by
  cases p with
  | merge m =>
    cases he : s.mrgs[m]? with
    | some e => rw [step_merge hseq hport he, exec_selector_at hseq he]; rfl
    | none =>
      have hsame : mergeEntry n m s = s := by rw [mergeEntry, he]
      rw [step_noMerge hseq hport he, runPhase, hsame]
  | _ => exact step_phase hseq hport (by simp)

/-- No phase reaches the port or the response (40_host_interface.md R153). -/
theorem runPhase_port_resp (p : Phase) (n : U64) (s : State) :
    (runPhase p n s).port = s.port ∧ (runPhase p n s).resp = s.resp := by
  cases p <;> simp [runPhase]

/-- A move at a phase with a successor leaves the sequencer there (40_host_interface.md R150). -/
theorem step_atSeq {p q : Phase} {s : State} (n : U64) (hport : s.port.head? ≠ some .powerOnReset)
    (hnext : phaseAfter s.mrgs.length p = some q) :
    step (atSeq (.running p n) s) = .next (atSeq (.running q n) (runPhase p n s)) := by
  rw [step_running (atSeq_seq _ s) hport, runPhase_atSeq, advanceSeq_atSeq n]
  rwa [runPhase_mrgs]

/-- The move at the last phase leaves the sequencer idle (10_state.md R23). -/
theorem step_atEpilogue {s : State} (n : U64) (hport : s.port.head? ≠ some .powerOnReset) :
    step (atSeq (.running .epilogue n) s) = .next (atSeq .idle (epilogue s)) := by
  rw [step_running (atSeq_seq _ s) hport]
  rfl

/-! ### Runs -/

/-- `k` moves of the machine lead from `s` to `t`. -/
def Runs (k : Nat) (s t : State) : Prop := Sys2Proof.core.run k s = .next t

theorem Runs.zero (s : State) : Runs 0 s s := rfl

/-- A run starts with a move. -/
theorem Runs.cons {k : Nat} {s t u : State} (hstep : step s = .next t) (hrun : Runs k t u) : Runs (k + 1) s u := by
  have hcore : Sys2Proof.core.step s = .next t := hstep
  simp only [Runs, Host.Core.run.eq_def Sys2Proof.core (k + 1) s, hcore]
  exact hrun

/-- Past the merge table Phase 4 follows (40_host_interface.md R150). -/
theorem mergeOrMonitor_end (nMerges : Nat) : mergeOrMonitor nMerges nMerges = .monitor := if_neg (Nat.lt_irrefl _)

theorem mergeOrMonitor_entry {nMerges m : Nat} (h : m < nMerges) : mergeOrMonitor nMerges m = .merge m := if_pos h

/-- From entry `m` of Phase 3, after the passes of the entries below it, one move for each entry left leads to the end of
the phase (43_merge_voter.md R200). -/
theorem runs_merges {j k m : Nat} {n : U64} {s t : State} (hport : s.port.head? ≠ some .powerOnReset)
    (hcount : m + k = s.mrgs.length) (hrest : Runs j (atSeq (.running .monitor n) (mergePhase n s)) t) :
    Runs (j + k) (atSeq (.running (mergeOrMonitor s.mrgs.length m) n) (ascending m (mergeEntry n) s)) t := by
  induction k generalizing m with
  | zero =>
    obtain rfl : m = s.mrgs.length := hcount
    rw [mergeOrMonitor_end]
    exact hrest
  | succ k ih =>
    have honly := ascending_only_sigs m (mergeEntry n) s (mergeEntry_only n)
    have hmrgs : (ascending m (mergeEntry n) s).mrgs = s.mrgs := by rw [honly]
    have hport' : (ascending m (mergeEntry n) s).port.head? ≠ some .powerOnReset := by rwa [honly]
    have hmove := step_atSeq (p := .merge m) n hport' rfl
    rw [hmrgs] at hmove
    rw [mergeOrMonitor_entry (by omega)]
    exact .cons hmove (ih (m := m + 1) (by omega))

/-- A run inside a step starts with the phase the sequencer stands at; what waits at the port is held. -/
theorem runs_phase {k : Nat} {p q : Phase} {n : U64} {s t : State} (hport : s.port.head? ≠ some .powerOnReset)
    (hnext : phaseAfter s.mrgs.length p = some q)
    (hrest : (runPhase p n s).port.head? ≠ some .powerOnReset → Runs k (atSeq (.running q n) (runPhase p n s)) t) :
    Runs (k + 1) (atSeq (.running p n) s) t := by
  refine .cons (step_atSeq n hport hnext) (hrest ?_)
  rwa [(runPhase_port_resp p n s).1]

/-- From the start of Phase 0, seven moves and one for each merge entry lead to the end of the step (40_host_interface.md
R150). -/
theorem runs_step {s : State} (hport : s.port.head? ≠ some .powerOnReset) :
    Runs (7 + s.mrgs.length) (startStep s) (runStep s) := by
  have hcount : 7 + s.mrgs.length = 4 + s.mrgs.length + 1 + 1 + 1 := by omega
  rw [hcount]
  refine runs_phase (p := .prologue) hport rfl fun hport => ?_
  refine runs_phase (p := .ingest) hport rfl fun hport => ?_
  refine runs_phase (p := .staleness) hport rfl fun hport => ?_
  have hmrgs : (runPhase .staleness s.now (runPhase .ingest s.now (runPhase .prologue s.now s))).mrgs = s.mrgs := by
    rw [runPhase_mrgs, runPhase_mrgs, runPhase_mrgs]
  rw [← hmrgs]
  refine runs_merges (m := 0) hport (Nat.zero_add _) ?_
  have hport : (mergePhase s.now (staleness s.now (ingest (prologue s)))).port.head? ≠ some .powerOnReset := by
    rwa [mergePhase_port]
  refine runs_phase (p := .monitor) hport rfl fun hport => ?_
  refine runs_phase (p := .transform) hport rfl fun hport => ?_
  refine runs_phase (p := .cyclic) hport rfl fun hport => ?_
  exact .cons (step_atEpilogue s.now hport) (.zero _)

/-- A step leaves the response of the transaction before it (40_host_interface.md R153). -/
theorem runStep_resp (s : State) : (runStep s).resp = s.resp := by simp [runStep, runPhases]

/-- A power-on reset leaves the reset state of the build, and what waits behind it at the port (70_reset_and_hazards.md
R340, R342). -/
theorem powerOnReset_eq (s : State) : powerOnReset s = { State.resetOf s.params with port := s.port } := by
  rw [powerOnReset, resetAll_eq]
  rfl

/-- Every move of the machine answers a next state (40_host_interface.md R152). -/
theorem step_total (s : State) : ∃ t, step s = .next t := by
  obtain ⟨rest, -, hstep⟩ | ⟨w, rest, -, -, hstep⟩ | ⟨-, -, hstep⟩ | ⟨m, n, e, -, -, -, hstep⟩ | ⟨m, n, -, -, -, hstep⟩ |
    ⟨p, n, -, -, -, hstep⟩ := step_cases s
  case inr.inl => rw [hstep]; exact exec_total _ _
  case inr.inr.inr.inl =>
    obtain ⟨t, ht⟩ := exec_total (decodeSelector (mrgCtrlWord e)) s
    rw [hstep, ht]
    exact ⟨_, rfl⟩
  all_goals exact ⟨_, hstep⟩

/-! ### The statements -/

/-- Settles O5: the transaction by `step_transaction`, the merge entry by `step_merge`, the idle block by `step_quiet`; the
decoder gives well-formed operations only. -/
theorem stepRunsDecodedInstruction : Obligations.StepRunsDecodedInstruction :=
  ⟨fun _ t _ hidle hport => ⟨(transactionDecodesByPriority.2 t).1, step_transaction hidle hport⟩,
    fun _ _ _ e hseq he hport => ⟨decodeSelector_wellFormed (mrgCtrlWord e), step_merge hseq hport he⟩,
    fun _ hidle hport => step_quiet hidle hport⟩

/-- Settles O21: the reset is the next move wherever it stands first, and leaves the reset state. -/
theorem powerOnResetAbandonsStep : Obligations.PowerOnResetAbandonsStep := by
  intro s rest hport
  rw [step_reset hport, powerOnReset_eq]
  rfl

/-- Settles O25: `runs_step`, whose end differs from the atomic STEP in the response only. -/
theorem sequencerRefinesStep : Obligations.SequencerRefinesStep := by
  intro s t hport h
  cases h
  have hend : { respond (runStep s) (.ok none) with resp := s.resp } = runStep s := by
    rw [← runStep_resp s]
    rfl
  rw [hend]
  exact runs_step hport

/-- Settles O26: the move is a phase and the sequencer's move on; neither reaches the port or the response. -/
theorem transactionsHeldDuringStep : Obligations.TransactionsHeldDuringStep := by
  intro s p n hseq hport
  obtain ⟨hkeepPort, hkeepResp⟩ := runPhase_port_resp p n s
  refine ⟨_, step_running hseq hport, ?_, ?_⟩
  · rw [advanceSeq_only]; exact hkeepPort
  · rw [advanceSeq_only]; exact hkeepResp

/-- Settles O27: the atomic STEP, the run of its phases (`runs_step`), and any move (`step_total`). -/
theorem noStepStops : Obligations.NoStepStops :=
  ⟨fun s => ⟨_, exec_step s, rfl⟩, fun _ hport => ⟨_, runs_step hport, rfl⟩, step_total⟩

/-- Settles O40: the engine stands at no entry, or at an index past the table, where a pass has no entry to run. -/
theorem selectorActsInPhase3Only : Obligations.SelectorActsInPhase3Only := by
  intro s en nin hnone
  have hsame : ∀ vote, atMergeEntry (mergePass vote en nin) s = s := by
    intro vote
    unfold atMergeEntry
    split
    next m n hseq => rw [mergePass, hnone m n hseq]
    next => rfl
  obtain ⟨hmin, hmax, haverage, hmedian, hmajority⟩ := methodRows_of_atMergeEntry hsame
  exact ⟨hmin, hmax, haverage, hmedian, hmajority, exec_methodReserved5 s en nin, exec_methodReserved6 s en nin,
    exec_methodReserved7 s en nin⟩

end Sys2Proof.Machine

/-! Phase 3 entry by entry: what the entries that run can write (43_merge_voter.md R200, R201), and MAJORITY under the
tolerance override (95_test_vectors.md section 2.3). -/

namespace Sys2Proof.Machine

/-! ### The outputs of merges that run -/

/-- Whether a merge runs depends on its entry and on the number of signals only (43_merge_voter.md R201). -/
theorem mergeRuns_congr {s t : State} (h : s.sigs.length = t.sigs.length) (e : MergeEntry) :
    mergeRuns s e = mergeRuns t e := by
  simp only [mergeRuns, mergeSkip, sigInRange, h]

/-- One entry leaves a signal that is not its output, or whose merge does not run (43_merge_voter.md R201). -/
theorem sigAt_mergeEntry_ne {s : State} {i : Nat} (h : ∀ e ∈ s.mrgs, mergeRuns s e = true → e.outId.toNat ≠ i) (n : U64)
    (m : Nat) : sigAt (mergeEntry n m s) i = sigAt s i := by
  obtain hsame | ⟨e, g, he, hruns, -, hwrite⟩ := mergeEntry_cases n m s
  · rw [hsame]
  · rw [hwrite]
    exact sigAt_setSig_ne _ _ _ _ (h e (List.mem_of_getElem? he) hruns)

/-- Phase 3 leaves a signal that is the output of no merge that runs: every entry finds the merge table and the number of
signals as at the start (43_merge_voter.md R201). -/
theorem sigAt_mergePhase_ne {s : State} {i : Nat} (h : ∀ e ∈ s.mrgs, mergeRuns s e = true → e.outId.toNat ≠ i) (n : U64) :
    sigAt (mergePhase n s) i = sigAt s i := by
  obtain ⟨hsig, -, -⟩ := ascending_keeps
    (fun t => sigAt t i = sigAt s i ∧ t.mrgs = s.mrgs ∧ t.sigs.length = s.sigs.length) s.mrgs.length (mergeEntry n) s
    (fun m t _ ⟨hsig, hmrgs, hlength⟩ => by
      refine ⟨(sigAt_mergeEntry_ne (fun e he hruns => ?_) n m).trans hsig, ?_, ?_⟩
      · exact h e (hmrgs ▸ he) (mergeRuns_congr hlength e ▸ hruns)
      · rwa [mergeEntry_mrgs]
      · rwa [mergeEntry_sigs_length]) ⟨rfl, rfl, rfl⟩
  exact hsig

/-- Settles O45: the loop as a fold, the selector of an entry as its pass, and what one entry can write. -/
theorem mergePhaseWritesOutputsOnly : Obligations.MergePhaseWritesOutputsOnly := fun s n =>
  ⟨ascending_eq_foldl _ _ s, fun _ _ hseq he => exec_selector_at hseq he, fun _ h => sigAt_mergePhase_ne h n,
    mergePhase_thresh n s, by rw [mergePhase_only]⟩

/-! ### MAJORITY within the spread -/

/-- Inputs that all differ by at most `tol` all lie within `tol` of their median, as it stands between two of them
(43_merge_voter.md R207). -/
theorem near_median_of_spread {v : List Int} {tol : Nat} (hv : v ≠ []) (h : ∀ x ∈ v, ∀ y ∈ v, x - y ≤ (tol : Int)) :
    ∀ x ∈ v, medianOf v - x ≤ (tol : Int) ∧ x - medianOf v ≤ (tol : Int) := by
  intro x hx
  obtain ⟨⟨low, hlow, hlowLe⟩, high, hhigh, hhighGe⟩ := medianOf_between hv
  have habove := h high hhigh x hx
  have hbelow := h x hx low hlow
  omega

/-- Within the spread every input counts for the quorum, so MAJORITY is OK (43_merge_voter.md R208). -/
theorem voteMajority_ok_of_spread {v : List Int} {tol : Nat} (hv : v ≠ [])
    (h : ∀ x ∈ v, ∀ y ∈ v, x - y ≤ (tol : Int)) : (voteMajority v tol).2 = .ok := by
  rw [voteMajority_status,
    List.filter_eq_self.mpr fun x hx => decide_eq_true (near_median_of_spread hv h x hx)]
  exact if_pos (by omega)

/-- Two different inputs are two inputs. -/
theorem one_lt_length_of_ne {v : List Int} {x y : Int} (hx : x ∈ v) (hy : y ∈ v) (h : x ≠ y) : 1 < v.length := by
  by_contra hshort
  obtain rfl | ⟨a, rfl⟩ : v = [] ∨ ∃ a, v = [a] := by
    rw [← List.length_eq_zero_iff, ← List.length_eq_one_iff]
    omega
  · exact List.not_mem_nil hx
  · exact h ((List.mem_singleton.mp hx).trans (List.mem_singleton.mp hy).symm)

/-- Settles O44: beyond the spread the override says INCONSISTENT; within it MAJORITY is OK and the override silent. -/
theorem majorityIsOkWithinSpread : Obligations.MajorityIsOkWithinSpread := by
  intro v tol hv htol
  rw [tolOverride_eq]
  constructor
  · intro hok x hx y hy
    by_contra hspread
    have hdiffer : x ≠ y := by omega
    rw [if_pos ⟨one_lt_length_of_ne hx hy hdiffer, htol, x, hx, y, hy, by omega⟩] at hok
    cases hok
  · intro h
    rw [if_neg, voteMajority_ok_of_spread hv h]
    rintro ⟨-, -, x, hx, y, hy, hspread⟩
    have hwithin := h x hx y hy
    omega

end Sys2Proof.Machine

/-! What each operation does to the sticky flags (60_exceptions.md R310 to R316), to the interrupt output and to NOW
(10_state.md R30). -/

namespace Sys2Proof.Machine

/-! ### Single words -/

/-- An offset that finds a named word is the word's own. -/
theorem eq_addrOf {p : Params} {a : Addr} {r : Reg} (h : regAt p a = some r) : a = addrOf r := by
  rw [addrOf, (regAt_some h).2, BitVec.ofNat_toNat, BitVec.setWidth_eq]

/-- A register write reaches STATUS only at STATUS (40_host_interface.md R132, R133). -/
theorem writeReg_status (s : State) (w : Word) {r : Reg} (h : r ≠ .status) : (writeReg s w r).status = s.status := by
  cases r with
  | status => contradiction
  | _ => rfl

/-- A register write reaches NOW only at its two words (10_state.md R30). -/
theorem writeReg_now (s : State) (w : Word) {r : Reg} (hlo : r ≠ .nowLo) (hhi : r ≠ .nowHi) :
    (writeReg s w r).now = s.now := by
  cases r with
  | nowLo | nowHi => contradiction
  | _ => rfl

/-- A write at any offset but that of STATUS leaves STATUS (30_encoding.md R103). -/
theorem writeWord_status (s : State) {a : Addr} (w : Word) (h : a ≠ 0x014#18) : (writeWord s a w).status = s.status := by
  cases ha : regAt s.params a with
  | none => rw [writeWord_reserved ha]
  | some r =>
    rw [writeWord_of w ha]
    exact writeReg_status s w fun hr => h ((eq_addrOf ha).trans (congrArg addrOf hr))

/-- A write at any offset but those of NOW_LO and NOW_HI leaves NOW (10_state.md R30). -/
theorem writeWord_now (s : State) {a : Addr} (w : Word) (hlo : a ≠ 0x020#18) (hhi : a ≠ 0x024#18) :
    (writeWord s a w).now = s.now := by
  cases ha : regAt s.params a with
  | none => rw [writeWord_reserved ha]
  | some r =>
    rw [writeWord_of w ha]
    exact writeReg_now s w (fun hr => hlo ((eq_addrOf ha).trans (congrArg addrOf hr)))
      fun hr => hhi ((eq_addrOf ha).trans (congrArg addrOf hr))

/-! ### The operations -/

/-- A METHOD row leaves STATUS and NOW. -/
theorem atMergeEntry_status_now (vote : List Int → Nat → Int × Status) (en : Bool) (nin : BitVec 4) (s : State) :
    (atMergeEntry (mergePass vote en nin) s).status = s.status ∧
    (atMergeEntry (mergePass vote en nin) s).now = s.now := by
  rw [atMergeEntry_only]
  exact ⟨rfl, rfl⟩

/-- EVT_PUSH leaves STATUS where there is room, and sets EVT_OVF where there is none (40_host_interface.md R136). -/
theorem pushEvent_status (s : State) :
    (pushEvent s).status =
      if s.fifo.length < s.maxEvents then s.status else { s.status with evtOvf := true } := by
  split
  next hroom => rw [pushEvent_room hroom]
  next hfull => rw [pushEvent_full hfull]; rfl

/-- The flags after an operation: what each of the six kinds does to them (60_exceptions.md R312 to R315). -/
inductive FlagMove (s : State) : Instr → Flags → Prop where
  | keep (i : Instr) : FlagMove s i s.status
  | step (f : Flags) (hevtOvf : f.evtOvf = s.status.evtOvf) (hcmdErr : f.cmdErr = s.status.cmdErr)
      (hgrow : WakeGrow s.status f) : FlagMove s .step f
  | overflow (hfull : s.maxEvents ≤ s.fifo.length) : FlagMove s .evtPush { s.status with evtOvf := true }
  | reset : FlagMove s .init Flags.zero
  | reserved (data : Word) : FlagMove s (.cmdReserved data) { s.status with cmdErr := true }
  | clear (data : Word) : FlagMove s (.statusW1c data) (clearFlags data s.status)

/-- Every well-formed operation moves the flags so; those not named leave STATUS. -/
theorem exec_flagMove {i : Instr} {s t : State} (hwf : i.wellFormed = true) (h : exec i s = .next t) :
    FlagMove s i t.status := by
  cases i with
  | step =>
    obtain ⟨hstatus, -⟩ := exec_step_tables h
    obtain ⟨hevtOvf, hcmdErr⟩ := runPhases_status s.now s
    rw [hstatus]
    exact .step _ hevtOvf hcmdErr (runPhases_grow s.now s)
  | evtPush =>
    cases h
    rw [respond_status, pushEvent_status]
    split
    next => exact .keep _
    next hfull => exact .overflow (Nat.le_of_not_lt hfull)
  | init => cases h; exact .reset
  | cmdReserved data => cases h; exact .reserved data
  | statusW1c data => cases h; exact .clear data
  | busWrite addr data =>
    cases h
    obtain ⟨-, hstatus⟩ : _ ∧ addr ≠ 0x014#18 := by simpa [Instr.wellFormed] using hwf
    rw [respond_status, writeWord_status s data hstatus]
    exact .keep _
  | methodMin en nin | methodMax en nin | methodAverage en nin | methodMedian en nin | methodMajority en nin =>
    cases h
    rw [(atMergeEntry_status_now _ en nin s).1]
    exact .keep _
  | _ => cases h; exact .keep _

/-! ### The interrupt output -/

/-- The interrupt output is 1 exactly while WAKE_IE and WAKE_PEND are (60_exceptions.md R316). -/
theorem irqWake_iff (s : State) : irqWake s = true ↔ s.wakeIe = true ∧ s.status.wakePend = true :=
  Bool.and_eq_true_iff

/-- Without WAKE_PEND there is no interrupt (60_exceptions.md R316). -/
theorem irqWake_of_not_pend {s : State} (h : s.status.wakePend = false) : irqWake s = false := by
  rw [irqWake, h, Bool.and_false]

/-! ### The statements -/

/-- Settles O57: each kind of `FlagMove` against each flag, and the interrupt output after the three operations. -/
theorem stickyFlagsSetAndCleared : Obligations.StickyFlagsSetAndCleared := by
  refine ⟨fun i s t hwf h => ?_, irqWake_iff, fun s t d h => ?_, fun s t h => ?_, fun s t d hd h => ?_⟩
  · have hmove := exec_flagMove hwf h
    generalize t.status = f at hmove
    cases hmove with
    | keep => simp +contextual
    | step _ hevtOvf hcmdErr hgrow =>
      obtain ⟨hpend, hovf⟩ := hgrow
      simp +contextual [hevtOvf, hcmdErr, hpend, hovf]
    | overflow hfull => simp +contextual [hfull]
    | reset => simp [Flags.zero]
    | reserved data => simp +contextual
    | clear data => simp +contextual [clearFlags]
  · have hat : regAt s.params 0x018#18 = some .irqEn := regAt_control _ (by decide) rfl
    rw [exec_busWrite_of hat] at h
    cases h
    exact ⟨rfl, rfl⟩
  · cases h
    exact irqWake_of_not_pend rfl
  · cases h
    exact irqWake_of_not_pend (by simp [clearFlags, hd])

/-- Settles O58: a step latches NOW and does not write it; a write reaches it at its two offsets only. -/
theorem onlyHostWritesNow : Obligations.OnlyHostWritesNow := by
  intro i s t h hnow
  cases i with
  | init => exact .inl rfl
  | busWrite addr data =>
    cases h
    by_cases hlo : addr = 0x020#18
    · exact .inr ⟨data, .inl (by rw [hlo])⟩
    by_cases hhi : addr = 0x024#18
    · exact .inr ⟨data, .inr (by rw [hhi])⟩
    · exact absurd (writeWord_now s data hlo hhi) hnow
  | step => exact absurd (exec_step_keeps h).1 hnow
  | evtPush =>
    cases h
    refine absurd ?_ hnow
    rw [respond_now, pushEvent]
    split <;> rfl
  | methodMin en nin | methodMax en nin | methodAverage en nin | methodMedian en nin | methodMajority en nin =>
    cases h
    exact absurd (atMergeEntry_status_now _ en nin s).2 hnow
  | _ => cases h; exact absurd rfl hnow

end Sys2Proof.Machine

/-! Phase 1 seen from one signal: its last event, and a signal that no queued event is for (41_ingestion.md R178,
70_reset_and_hazards.md R353). -/

namespace Sys2Proof.Machine

/-! ### The last event of a signal -/

/-- Phase 1 leaves the signals as its events do (41_ingestion.md R173). -/
theorem sigAt_ingest (s : State) (i : Nat) : sigAt (ingest s) i = sigAt (s.fifo.foldl ingestEvent s) i := rfl

/-- Events keep the number of signals. -/
theorem foldl_ingestEvent_sigs_length (es : List Event) (s : State) :
    (es.foldl ingestEvent s).sigs.length = s.sigs.length := by
  induction es generalizing s with
  | nil => rfl
  | cons e es ih => rw [List.foldl_cons, ih, ingestEvent_sigs_length]

/-- Events with other ids leave a signal as it was (41_ingestion.md R173). -/
theorem sigAt_foldl_other {es : List Event} {i : SigId} (h : ∀ e ∈ es, e.id ≠ i) (s : State) :
    sigAt (es.foldl ingestEvent s) i.toNat = sigAt s i.toNat :=
  (fold_sig es s i.toNat fun e he heq => h e he (BitVec.eq_of_toNat_eq heq)).1

/-- The last event of a signal writes it, and the later events leave it (41_ingestion.md R178). -/
theorem sigAt_ingest_last {s : State} {before after : List Event} {e : Event} (hfifo : s.fifo = before ++ e :: after)
    (hin : e.id.toNat < s.sigs.length) (hlast : ∀ e' ∈ after, e'.id ≠ e.id) :
    sigAt (ingest s) e.id.toNat = ingestSignal e (sigAt (before.foldl ingestEvent s) e.id.toNat) := by
  have hin' : e.id.toNat < (before.foldl ingestEvent s).sigs.length := by rwa [foldl_ingestEvent_sigs_length]
  rw [sigAt_ingest, hfifo, List.foldl_append, List.foldl_cons, sigAt_foldl_other hlast, ingestEvent_at _ _ hin',
    if_pos rfl]

/-- Settles O30: `sigAt_ingest_last`, field by field. -/
theorem lastEventOfSignalWins : Obligations.LastEventOfSignalWins := by
  intro s before e after hfifo hin hlast
  rw [sigAt_ingest_last hfifo hin hlast]
  exact ⟨rfl, rfl, rfl, rfl, ingest_fifo s⟩

/-! ### The single-writer predicate -/

/-- Under the single-writer predicate no queued event is for a signal in range that has a writer (70_reset_and_hazards.md
R353). -/
theorem event_id_ne_of_writer {s : State} {i : SigId} (hsingle : singleWriter s = true) (hin : i.toNat < s.sigs.length)
    (hwriter : writersOf s i ≠ []) : ∀ e ∈ s.fifo, e.id ≠ i := by
  have hat : singleWriterAt s (BitVec.ofNat 16 i.toNat) = true :=
    List.all_eq_true.mp hsingle i.toNat (List.mem_range.mpr hin)
  rw [BitVec.ofNat_toNat, BitVec.setWidth_eq, singleWriterAt, Bool.and_eq_true_iff] at hat
  obtain ⟨-, hevents⟩ := hat
  simpa [hwriter] using hevents

/-- Settles O59: no queued event is for the signal, and events of other signals leave it. -/
theorem singleWriterSparesOutputs : Obligations.SingleWriterSparesOutputs := fun s _ hsingle hin hwriter =>
  sigAt_foldl_other (event_id_ne_of_writer hsingle hin hwriter) s

end Sys2Proof.Machine

/-! The writes of the transform slot (45_transform_slot.md R281, R282). -/

namespace Sys2Proof.Machine

/-- A transform that may run, spelled out (45_transform_slot.md R281 item 3). -/
theorem xformMayRun_iff (s : State) (x : Xform) :
    xformMayRun s x = true ↔
      x.en = true ∧ x.inId.toNat < s.sigs.length ∧ x.outId.toNat < s.sigs.length ∧ x.outId ≠ x.inId := by
  simp [xformMayRun, sigInRange, and_assoc]

/-- The signals `XFORM` may write are the outputs of transforms that may run (45_transform_slot.md R281 item 3). -/
theorem xformMayWrite_iff (s : State) (i : Nat) :
    xformMayWrite s i = true ↔ ∃ x ∈ s.xfs, xformMayRun s x = true ∧ x.outId.toNat = i := by
  simp [xformMayWrite]

/-- Settles O51: a supplied `XFORM` signal by signal; `XFORM_ID` is the identity. -/
theorem transformContract : Obligations.TransformContract := by
  intro s n
  refine ⟨fun i hnone => ?_, transformPhase_thresh n s, by rw [transformPhase_only], fun hid => ?_,
    fun k hk x hx hen hin hout hne => ?_⟩
  · obtain ⟨-, hphase⟩ | ⟨k, -, hphase⟩ := transformPhase_cases n s
    · rw [hphase]
    · have hnot : ¬ xformMayWrite s i = true := by
        rw [xformMayWrite_iff]
        rintro ⟨x, hx, hruns, hi⟩
        obtain ⟨hen, hin, hout, hne⟩ := (xformMayRun_iff s x).mp hruns
        exact hnone x hx hen hin hout hne hi
      rw [hphase, sigAt_xformSupplied, xformSignal, if_neg hnot, ite_self]
  · rw [transformPhase, hid]
    rfl
  · have hmay : xformMayWrite s x.outId.toNat = true :=
      (xformMayWrite_iff s _).mpr ⟨x, hx, (xformMayRun_iff s x).mpr ⟨hen, hin, hout, hne⟩, rfl⟩
    have hphase : transformPhase n s = xformSupplied k n s := by rw [transformPhase, hk]
    rw [hphase, sigAt_xformSupplied, if_pos hout, xformSignal, if_pos hmay]
    rfl

end Sys2Proof.Machine

/-! The deadlines of Phase 6 over any list of step times (46_output_scheduler.md R291, R293, R294, R297, R298). -/

namespace Sys2Proof.Machine

/-- Whether an entry is enabled depends on its source, its period and the number of signals (46_output_scheduler.md
R291). -/
theorem cycEnabled_iff (s : State) (e : CyclicEntry) :
    cycEnabled s e = true ↔ e.period ≠ 0#32 ∧ e.src.toNat < s.sigs.length := by
  simp [cycEnabled, sigInRange]

/-- Phase 6 leaves a disabled entry (46_output_scheduler.md R291). -/
theorem cycAt_cyclicPhase_disabled {s : State} {c : Nat} (h : ¬ cycEnabled s (cycAt s c) = true) (n : U64) :
    cycAt (cyclicPhase n s) c = cycAt s c := by
  simp [cycAt_cyclicPhase, h]

/-- Over any steps a disabled entry stays as it is (46_output_scheduler.md R291). -/
theorem foldl_cyclicPhase_disabled (times : List U64) {s : State} {c : Nat}
    (h : ¬ cycEnabled s (cycAt s c) = true) :
    cycAt (times.foldl (fun u n => cyclicPhase n u) s) c = cycAt s c := by
  induction times generalizing s with
  | nil => rfl
  | cons n times ih =>
    have hstays := cycAt_cyclicPhase_disabled h n
    refine (ih ?_).trans hstays
    rwa [hstays, cycEnabled_iff, cyclicPhase_sigs, ← cycEnabled_iff]

/-- A deadline counted without the wrap, after a step at time `n`: one `period` further where the stored deadline, which is
`d` modulo 2^64, has been reached (46_output_scheduler.md R293, R294). -/
def deadlineAfter (period d : Nat) (n : U64) : Nat := if d % 2 ^ 64 ≤ n.toNat then d + period else d

/-- One step moves the deadline of an enabled entry so (46_output_scheduler.md R294). -/
theorem cycAt_cyclicPhase_enabled {s : State} {c : Nat} {e : CyclicEntry} {d : Nat} (henabled : cycEnabled s e = true)
    (hat : cycAt s c = { e with dl := BitVec.ofNat 64 d }) (n : U64) :
    cycAt (cyclicPhase n s) c = { e with dl := BitVec.ofNat 64 (deadlineAfter e.period.toNat d n) } := by
  have henabled' : cycEnabled s (cycAt s c) = true := by rw [hat]; exact henabled
  have hdue : cycDue n (cycAt s c) = decide (d % 2 ^ 64 ≤ n.toNat) := by rw [hat, cycDue, BitVec.toNat_ofNat]
  rw [cycAt_cyclicPhase, henabled', hdue, Bool.true_and, deadlineAfter, hat]
  by_cases hreached : d % 2 ^ 64 ≤ n.toNat
  · rw [if_pos (decide_eq_true hreached), if_pos hreached, advanceDeadline_eq]
    congr 1
    apply BitVec.eq_of_toNat_eq
    simp
  · rw [if_neg (by simpa using hreached), if_neg hreached]

/-- Over any steps the deadline of an enabled entry is the count's (46_output_scheduler.md R297). -/
theorem foldl_cyclicPhase_enabled (times : List U64) {s : State} {c : Nat} {e : CyclicEntry} {d : Nat}
    (henabled : cycEnabled s e = true) (hat : cycAt s c = { e with dl := BitVec.ofNat 64 d }) :
    cycAt (times.foldl (fun u n => cyclicPhase n u) s) c =
      { e with dl := BitVec.ofNat 64 (times.foldl (deadlineAfter e.period.toNat) d) } := by
  induction times generalizing s d with
  | nil => exact hat
  | cons n times ih =>
    refine ih ?_ (cycAt_cyclicPhase_enabled henabled hat n)
    rwa [cycEnabled_iff, cyclicPhase_sigs, ← cycEnabled_iff]

/-- The count moves by a whole number of periods, at most one a step (46_output_scheduler.md R298). -/
theorem foldl_deadlineAfter (times : List U64) (period d : Nat) :
    ∃ j, j ≤ times.length ∧ times.foldl (deadlineAfter period) d = d + j * period := by
  induction times generalizing d with
  | nil => exact ⟨0, le_rfl, by simp⟩
  | cons n times ih =>
    obtain ⟨j, hj, hfold⟩ := ih (deadlineAfter period d n)
    rw [List.foldl_cons, hfold, List.length_cons, deadlineAfter]
    split
    · exact ⟨j + 1, by omega, by ring⟩
    · exact ⟨j, by omega, rfl⟩

/-- Settles O54: a disabled entry stays; an enabled one by the count of `deadlineAfter`. -/
theorem deadlinesNeverDrift : Obligations.DeadlinesNeverDrift := by
  intro s times c e t
  have hdisabled : e.period = 0#32 ∨ s.sigs.length ≤ e.src.toNat ↔ ¬ cycEnabled s e = true := by
    rw [cycEnabled_iff, not_and_or, not_ne_iff, Nat.not_lt]
  split
  next hoff => exact foldl_cyclicPhase_disabled times (hdisabled.mp hoff)
  next hon =>
    have henabled : cycEnabled s e = true := not_not.mp (mt hdisabled.mpr hon)
    have hat : cycAt s c = { e with dl := BitVec.ofNat 64 e.dl.toNat } := by
      rw [BitVec.ofNat_toNat, BitVec.setWidth_eq]
    exact ⟨foldl_cyclicPhase_enabled times henabled hat, foldl_deadlineAfter times e.period.toNat e.dl.toNat⟩

end Sys2Proof.Machine
